-- ==== Sys2Proof/Word.lean ====
section
/-! DEFINITION. The word types of the engine (00_scope.md R5, R7; 20_memory.md R64; 30_encoding.md R81). -/

namespace Sys2Proof

/-- A 32-bit register word (R5). -/
abbrev Word := BitVec 32

/-- One byte lane of a byte-addressed host bus (R64). -/
abbrev Byte := BitVec 8

/-- A byte offset in the 64-byte window: 6 bits (R81). -/
abbrev Offset := BitVec 6

end Sys2Proof
end

