-- ==== Sys2Proof/Syntax.lean ====
section
/-! DEFINITION. The two formats of 30_encoding.md R80 as data: the eight commands (R84) and the bus
transactions (R81), with the host notation that expands to them (R88, R89), and the agents that take
steps (00_scope.md R11). -/

namespace Sys2Proof

/-- The eight commands, one per row of spec/opcode_table.json (30_encoding.md R84). A command word
carries no operand (R82). -/
inductive Instr where
  | modpow
  | modinv
  | modmul
  | isprime
  | safeprimeQ
  | safeprimeP
  | genfindSub
  | genfindRef
  deriving DecidableEq, Repr

/-- A port transaction (R81). For a read the returned word is no part of the request: it goes to the
reply record. -/
inductive BusAccess where
  | write (off : Offset) (data : Word)
  | read (off : Offset)
  deriving DecidableEq, Repr

/-- What a host asks of the bus: a port transaction (R81), an access on a byte-addressed host bus
(R10 `MemWrite` and `MemRead`, R63, R64), or the polling loop `WAIT` (R89). -/
inductive HostOp where
  | access (a : BusAccess)
  | memWrite (addr : Nat) (data : List Byte)
  | memRead (addr : Nat) (width : Nat)
  | wait
  deriving DecidableEq, Repr

/-- Who takes the next step (R11): the host, the engine sequencer, or the hardware reset input
(70_reset_and_hazards.md R230). -/
inductive Move where
  | host
  | engine
  | rst
  deriving DecidableEq, Repr, Inhabited

/-- The nine named registers of the host notation (R88) with the offsets of 10_state.md R21. -/
inductive Reg where
  | id
  | ctrl
  | status
  | cmd
  | opa
  | opb
  | opm
  | res
  | aux
  deriving DecidableEq, Repr

end Sys2Proof
end

