-- ==== Sys2Proof/WellFormed.lean ====
section
/-! DEFINITION. Which terms are expressible on the hardware (20_memory.md R61-R63; 30_encoding.md R80-R82). -/

namespace Sys2Proof

/-- A command word has no operand field (R82), so every command is well formed. -/
def Instr.wellFormed : Instr → Bool
  | .modpow => true
  | .modinv => true
  | .modmul => true
  | .isprime => true
  | .safeprimeQ => true
  | .safeprimeP => true
  | .genfindSub => true
  | .genfindRef => true

/-- An offset is word-aligned: `off[1:0] = 0` (R63, R81). -/
def Offset.aligned (off : Offset) : Bool := off.extractLsb' 0 2 == 0#2

/-- A port transaction is to a word-aligned offset (R63, R81). -/
def BusAccess.wellFormed : BusAccess → Bool
  | .write off _ => Offset.aligned off
  | .read off => Offset.aligned off

/-- A byte address lies in the 64-byte window at `base` (R60, R61). -/
def inWindow (base addr : Nat) : Bool := decide (base ≤ addr) && decide (addr < base + 64)

/-- A host operation is an engine access when it is a whole aligned word in the window at `base`
(R61, R62, R63). -/
def HostOp.wellFormed (base : Nat) : HostOp → Bool
  | .access a => a.wellFormed
  | .memWrite addr data => inWindow base addr && data.length == 4 && addr % 4 == 0
  | .memRead addr width => inWindow base addr && width == 4 && addr % 4 == 0
  | .wait => true

end Sys2Proof
end

