-- ==== Sys2Proof/Decode.lean ====
section
/-! DEFINITION. The command word's decoder by the fields of 30_encoding.md R82 and R85, the encoder by the
words of R84, and the little-endian byte lanes of 20_memory.md R64. -/

namespace Sys2Proof

/-- Why a word is illegal: the clauses of R85, and a byte string too short to hold a word. -/
inductive DecodeReject where
  /-- `w[31:8] != 0`. -/
  | reservedBits
  /-- `w[3:0]` is 0 or in 7-15. -/
  | reservedOp
  /-- `w[7:4]` is no variant of the operation. -/
  | reservedFn
  /-- Fewer than four bytes: one instruction length (R80). -/
  | truncated
  deriving DecidableEq, Repr

/-- Field OP, bits 3:0 (R82). -/
def cmdOp (w : Word) : BitVec 4 := w.extractLsb' 0 4

/-- Field FN, bits 7:4 (R82). -/
def cmdFn (w : Word) : BitVec 4 := w.extractLsb' 4 4

/-- Field RSVD, bits 31:8 (R82). -/
def cmdRsvd (w : Word) : BitVec 24 := w.extractLsb' 8 24

/-- The command that OP and FN select (R82), or why they select none (R85). -/
def decodeFields (op fn : Nat) : Except DecodeReject Instr :=
  match op with
  | 1 => if fn = 0 then .ok .modpow else .error .reservedFn
  | 2 => if fn = 0 then .ok .modinv else .error .reservedFn
  | 3 => if fn = 0 then .ok .modmul else .error .reservedFn
  | 4 => if fn = 0 then .ok .isprime else .error .reservedFn
  | 5 => if fn = 0 then .ok .safeprimeQ else if fn = 1 then .ok .safeprimeP else .error .reservedFn
  | 6 => if fn = 0 then .ok .genfindSub else if fn = 1 then .ok .genfindRef else .error .reservedFn
  | _ => .error .reservedOp

/-- Decoding of a whole word, total on all words (R86), rejecting by name. -/
def decodeWord (w : Word) : Except DecodeReject Instr :=
  if cmdRsvd w = 0#24 then decodeFields (cmdOp w).toNat (cmdFn w).toNat else .error .reservedBits

/-- `decode(w)` of R87: the command, or ILLEGAL as `none`. -/
def decode (w : Word) : Option Instr :=
  match decodeWord w with
  | .ok i => some i
  | .error _ => none

/-- The word of four byte lanes, lane 0 first (R64). -/
def wordOfBytes (b0 b1 b2 b3 : Byte) : Word := b3 ++ b2 ++ b1 ++ b0

/-- Byte lane `k` of a word: bits `[8k+7:8k]` (R64). -/
def byteLane (w : Word) (k : Nat) : Byte := w.extractLsb' (8 * k) 8

/-- The four byte lanes of a word, lane 0 first (R64). -/
def bytesOfWord (w : Word) : List Byte := [byteLane w 0, byteLane w 1, byteLane w 2, byteLane w 3]

/-- Decoding from bytes as a byte-addressed host bus lays a word out (R64): the command and the bytes
after it. -/
def decodeBytes : List Byte → Except DecodeReject (Instr × List Byte)
  | b0 :: b1 :: b2 :: b3 :: rest =>
    match decodeWord (wordOfBytes b0 b1 b2 b3) with
    | .ok i => .ok (i, rest)
    | .error r => .error r
  | _ => .error .truncated

/-- The word of a command, column `word` of R84. -/
def encode : Instr → Word
  | .modpow => 0x00000001#32
  | .modinv => 0x00000002#32
  | .modmul => 0x00000003#32
  | .isprime => 0x00000004#32
  | .safeprimeQ => 0x00000005#32
  | .safeprimeP => 0x00000015#32
  | .genfindSub => 0x00000006#32
  | .genfindRef => 0x00000016#32

/-- The bytes of a command's word (R64, R84). -/
def encodeBytes (i : Instr) : List Byte := bytesOfWord (encode i)

/-- The low `nbits` bits of `w` as a command word (R80: every command is one 32-bit word). -/
def tableWord (nbits w : Nat) : Word := BitVec.ofNat 32 (w % 2 ^ nbits)

/-- The command the decoder reads from the `nbits`-bit table word `w`, laid out in byte lanes. -/
def decodeTableWord (nbits w : Nat) : Option Instr :=
  match decodeBytes (bytesOfWord (tableWord nbits w)) with
  | .ok (i, _) => some i
  | .error _ => none

end Sys2Proof
end

