-- ==== Sys2Proof/Config.lean ====
section
/-! DEFINITION. What the spec leaves OPEN (00_scope.md R6; 92_eei_decisions.md, OPEN parameters), as
constants with no value: no proof can see what they are. -/

namespace Sys2Proof

/-- `ENGINE_BASE` divided by 4 (R6, D3). DEDUCED: the base is word-aligned, since R63 speaks of an
aligned address and an aligned offset as one thing (log 5). -/
opaque Config.engineBaseWord : Nat

/-- `ENGINE_BASE`, the byte address of the window on the host bus (R60, R68). -/
def Config.engineBase : Nat := 4 * Config.engineBaseWord

/-- `IRQ_LINE`, the platform line the `irq` output drives (R6, R32, D23) (log 12). -/
opaque Config.irqLine : Nat

/-- `ENGINE_LATENCY` less 1, for the `run`-th free choice and the latched words (R110, D22): any
number, per command and per run (log 3). -/
opaque Config.engineLatency (run : Nat) (cmd opa opb opm : Word) : Nat

/-- Which agent moves when no schedule is given: any of them, at each choice (R11, R208) (log 2). -/
opaque Config.nextMove (choice : Nat) : Move

end Sys2Proof
end

