-- ==== Sys2Proof/Machine/State.lean ====
section
/-! DEFINITION. The machine's whole state (10_state.md R20-R35), the outcome of a command (40_host_access.md
R111, R112, R115), and the reset state (R35). -/

namespace Sys2Proof.Machine

/-- The engine phase (R33). -/
inductive Phase where
  | idle
  | busy
  deriving DecidableEq, Repr

/-- The errors a command can end in (60_exceptions.md R200). No error is "code 0", see `statusErrcode`. -/
inductive CmdError where
  /-- Code 1: the accepted word is illegal (R85). -/
  | illegalCommand
  /-- Code 2: an operand is outside the command's accepted range (R201). -/
  | preconditionViolation
  /-- Code 3: gcd(a, m) != 1 (R150). -/
  | nonInvertibleInput
  /-- Code 4: no candidate passes the filter (R173). -/
  | domainConstructionFailure
  deriving DecidableEq, Repr

/-- The outcome of a command: `Ok(res, aux, bool)` or `Err(code, info)` (R111, R112, R115). -/
inductive CmdOutcome where
  | ok (res aux : Int) (bool : Bool)
  | err (code : CmdError) (info : Int)
  deriving DecidableEq, Repr

/-- `lat`: the four words copied at accept (R33, R109). -/
structure Latch where
  cmd : Word
  opa : Word
  opb : Word
  opm : Word
  deriving DecidableEq, Repr

/-- The engine's surroundings, the MODEL's own fields (logs 2, 3, 7, 8): what the bus will deliver, who
moves next, how long commands take, and what reads have returned. -/
structure Env where
  /-- The host operations still to perform, in the order the bus delivers them (R70). -/
  bus : List HostOp
  /-- The agents of the next steps (R11, R208); when empty, `Config.nextMove` chooses. -/
  sched : List Move
  /-- `ENGINE_LATENCY` less 1 of the commands to come (R110); when empty, `Config.engineLatency` chooses. -/
  latencies : List Nat
  /-- How many free values have been drawn. -/
  choices : Nat
  /-- The words reads returned (R62, R81), newest first. -/
  replies : List Word
  deriving DecidableEq, Repr

/-- The whole state. ID, STATUS.ERR, CTRL.SRST, the reserved offsets and `irq` have no storage
(R22, R23, R25, R31, R32). -/
structure State where
  /-- CTRL.IE (R23). -/
  ctrlIe : Bool
  /-- STATUS.DONE (R24). -/
  statusDone : Bool
  /-- STATUS.BOOL (R24). -/
  statusBool : Bool
  /-- STATUS.OVR (R24). -/
  statusOvr : Bool
  /-- STATUS.ERRCODE (R24, R200): `none` is code 0 (log 21). -/
  statusErrcode : Option CmdError
  /-- CMD (R26). -/
  cmd : Word
  /-- OPA (R28). -/
  opa : Word
  /-- OPB (R28). -/
  opb : Word
  /-- OPM (R28). -/
  opm : Word
  /-- RES (R29). -/
  res : Word
  /-- AUX (R30). -/
  aux : Word
  /-- The engine phase, also STATUS.BUSY (R24, R33). -/
  phase : Phase
  /-- The latched command and operands (R33, R109). -/
  lat : Latch
  /-- The remaining engine steps of the running command (R33, R110). -/
  work : Nat
  /-- The surroundings (the model's own). -/
  env : Env
  deriving DecidableEq, Repr

/-- What stops the machine. The spec has nothing that does: an error ends a command, not a program
(60_exceptions.md, R200, R209), so the type has no constructor. -/
inductive Fault
  deriving DecidableEq, Repr

/-- Accesses that are not engine accesses and take no step (20_memory.md R61, R63; 93 S8). All are safe:
a refusal only makes claims unprovable (log 6). -/
inductive Refusal where
  /-- An instruction without a meaning, by its mnemonic; no arm of this model raises it. Safe. -/
  | notModelled (mnemonic : String)
  /-- A host access whose address or offset is not word-aligned (R63). Raised by `deliver`. Safe. -/
  | unalignedAccess
  /-- A host access whose width is not four bytes (R62, R63). Raised by `deliver`. Safe. -/
  | notWholeWord
  /-- A byte address outside the 64-byte window, no engine access (R61). Raised by `deliver`. Safe. -/
  | outsideWindow
  deriving DecidableEq, Repr

/-- The outcome of a step of this machine. -/
abbrev Out := Host.Outcome State Fault Refusal

/-- Nothing latched: the value of the unspecified `lat` after reset (DESIGN CHOICE, log 4). -/
def Latch.zero : Latch := { cmd := 0, opa := 0, opb := 0, opm := 0 }

/-- Surroundings that ask for nothing and have recorded nothing (DESIGN CHOICE, log 8). -/
def Env.empty : Env := { bus := [], sched := [], latencies := [], choices := 0, replies := [] }

/-- The state after reset: R35's table. `lat` and `work`, unspecified there, are DESIGN CHOICE (log 4);
`env` is DESIGN CHOICE (log 8). -/
def State.reset : State :=
  { ctrlIe := false
    statusDone := false
    statusBool := false
    statusOvr := false
    statusErrcode := none
    cmd := 0
    opa := 0
    opb := 0
    opm := 0
    res := 0
    aux := 0
    phase := .idle
    lat := Latch.zero
    work := 0
    env := Env.empty }

end Sys2Proof.Machine
end

