-- ==== Sys2Proof/Machine/Operands.lean ====
section
/-! DEFINITION. Reading operands as signed integers and storing results as words (00_scope.md R8;
30_encoding.md R83). -/

namespace Sys2Proof.Machine

/-- `sval(w)`: the integer a word denotes in two's complement (R8). -/
def sval (w : Word) : Int := w.toInt

/-- `word(v)`: the word whose `sval` is `v`, for `v` in [-2^31, 2^31 - 1] (R8). -/
def word (v : Int) : Word := BitVec.ofInt 32 v

/-- A one-bit value as the integer 0 or 1 (R8 `zext_32`). -/
def bitVal (b : Bool) : Int := if b then 1 else 0

/-- Operand A of the latched command, signed (R83). -/
def Latch.a (l : Latch) : Int := sval l.opa

/-- Operand B of the latched command, signed (R83). -/
def Latch.b (l : Latch) : Int := sval l.opb

/-- The modulus operand of the latched command, signed (R83). -/
def Latch.m (l : Latch) : Int := sval l.opm

end Sys2Proof.Machine
end

