-- ==== Sys2Proof/Machine/Flags.lean ====
section
/-! DEFINITION. The flags: the words STATUS and CTRL read as (40_host_access.md R107), the error codes
(60_exceptions.md R200) and the interrupt output (10_state.md R32). -/

namespace Sys2Proof.Machine

/-- The code of an error (R200). -/
def CmdError.code : CmdError → BitVec 4
  | .illegalCommand => 1
  | .preconditionViolation => 2
  | .nonInvertibleInput => 3
  | .domainConstructionFailure => 4

/-- The field STATUS.ERRCODE, bits 11:8 (R24, R200). -/
def errcodeField (s : State) : BitVec 4 :=
  match s.statusErrcode with
  | none => 0
  | some e => e.code

/-- STATUS.ERR, derived at every read (R25). -/
def errBit (s : State) : Bool := errcodeField s != 0#4

/-- STATUS.BUSY: the phase (R24, R33). -/
def busyBit (s : State) : Bool := s.phase == .busy

/-- The word a read of STATUS returns (R24, R107). -/
def statusWord (s : State) : Word :=
  0#20 ++ errcodeField s ++ 0#3 ++ BitVec.ofBool s.statusOvr ++ BitVec.ofBool s.statusBool
    ++ BitVec.ofBool (errBit s) ++ BitVec.ofBool s.statusDone ++ BitVec.ofBool (busyBit s)

/-- The word a read of CTRL returns: bit 1 reads 0 (R23, R107). -/
def ctrlWord (s : State) : Word := 0#31 ++ BitVec.ofBool s.ctrlIe

/-- The identification word (R22). -/
def idWord : Word := 0x454C4707#32

/-- The level output `irq` = CTRL.IE AND STATUS.DONE (R32, R205). -/
def irq (s : State) : Bool := s.ctrlIe && s.statusDone

/-- The platform line driven and its level (R32); what the platform does with it is outside (log 12). -/
def irqOutput (s : State) : Nat × Bool := (Config.irqLine, irq s)

end Sys2Proof.Machine
end

