-- ==== Sys2Proof/Machine/Ops.lean ====
section
/-! DEFINITION. The operations every step is built from: the register window (40_host_access.md R100-R108),
accept and completion (R109, R111-R113), reset (70_reset_and_hazards.md R231, R232), and the delivery of
host operations to the port (20_memory.md R61-R64). -/

namespace Sys2Proof.Machine

/-! ### Completion -/

/-- `CompleteOk(res, aux, bool)` (R111). -/
def completeOk (res aux : Int) (bool : Bool) (s : State) : State :=
  { s with
    res := word res
    aux := word aux
    statusBool := bool
    statusErrcode := none
    statusDone := true
    phase := .idle }

/-- `CompleteErr(code, info)` (R112): the analogue of taking an exception (R209). It saves the code and
the info, discards every partial result and transfers no control. -/
def completeErr (code : CmdError) (info : Int) (s : State) : State :=
  { s with
    res := 0
    aux := word info
    statusBool := false
    statusErrcode := some code
    statusDone := true
    phase := .idle }

/-- A command's completion with its outcome, one atomic step (R65, R110). -/
def complete (o : CmdOutcome) (s : State) : State :=
  match o with
  | .ok res aux bool => completeOk res aux bool s
  | .err code info => completeErr code info s

/-- `WriteSTATUS(v)` (R103): write 1 to clear DONE (bit 1) and OVR (bit 4). Clearing DONE is the analogue
of a return from an exception (R210). -/
def writeStatus (v : Word) (s : State) : State :=
  { s with
    statusDone := s.statusDone && !v.getLsbD 1
    statusOvr := s.statusOvr && !v.getLsbD 4 }

/-! ### Reset -/

/-- Reset, hardware or soft: every piece of the engine's state takes its reset value (R231, R232). The
surroundings are no part of the engine. -/
def engineReset (s : State) : State := { State.reset with env := s.env }

/-! ### Accept -/

/-- The assignments of `Accept(w)` (R109). -/
def acceptRegs (w : Word) (s : State) : State :=
  { s with
    cmd := w
    lat := { cmd := w, opa := s.opa, opb := s.opb, opm := s.opm }
    statusDone := false
    statusErrcode := none
    phase := .busy }

/-- The accepted command's number of engine steps, `ENGINE_LATENCY` (R110): 1 more than the next entry of
`env.latencies`, or than a free value when none is given (log 3). -/
def startWork (s : State) : State :=
  match s.env.latencies with
  | k :: ks => { s with work := k + 1, env := { s.env with latencies := ks } }
  | [] =>
    { s with
      work := Config.engineLatency s.env.choices s.lat.cmd s.lat.opa s.lat.opb s.lat.opm + 1
      env := { s.env with choices := s.env.choices + 1 } }

/-- `Accept(w)` (R109), with the number of engine steps the command will take (R110). -/
def accept (w : Word) (s : State) : State := startWork (acceptRegs w s)

/-- `WriteCMD(w)` (R104): accept when idle, else the write is dropped and OVR is set (R113). -/
def writeCmd (w : Word) (s : State) : State :=
  match s.phase with
  | .idle => accept w s
  | .busy => { s with statusOvr := true }

/-- `WriteCTRL(v)` (R102). -/
def writeCtrl (v : Word) (s : State) : State :=
  if v.getLsbD 1 then engineReset s else { s with ctrlIe := v.getLsbD 0 }

/-! ### The register window -/

/-- The register at a word index `off[5:2]` (R21, R61); `none` is a reserved offset. -/
def regAt (off : Offset) : Option Reg :=
  match (off >>> 2).toNat with
  | 0 => some .id
  | 1 => some .ctrl
  | 2 => some .status
  | 3 => some .cmd
  | 4 => some .opa
  | 5 => some .opb
  | 6 => some .opm
  | 7 => some .res
  | 8 => some .aux
  | _ => none

/-- `BusWrite(off, v)` (R100-R106). -/
def busWrite (off : Offset) (v : Word) (s : State) : State :=
  match regAt off with
  | some .id => s
  | some .ctrl => writeCtrl v s
  | some .status => writeStatus v s
  | some .cmd => writeCmd v s
  | some .opa => { s with opa := v }
  | some .opb => { s with opb := v }
  | some .opm => { s with opm := v }
  | some .res => s
  | some .aux => s
  | none => s

/-- `BusRead(off)` (R107). -/
def busRead (off : Offset) (s : State) : Word :=
  match regAt off with
  | some .id => idWord
  | some .ctrl => ctrlWord s
  | some .status => statusWord s
  | some .cmd => s.cmd
  | some .opa => s.opa
  | some .opb => s.opb
  | some .opm => s.opm
  | some .res => s.res
  | some .aux => s.aux
  | none => 0

/-- Record the word a read returned (R62, R81) (log 7). -/
def reply (v : Word) (s : State) : State :=
  { s with env := { s.env with replies := v :: s.env.replies } }

/-- One port transaction (R81, R100, R107). -/
def busAccess (a : BusAccess) (s : State) : State :=
  match a with
  | .write off v => busWrite off v s
  | .read off => reply (busRead off s) s

/-- The byte that byte address `addr` shows on a byte-addressed host bus (R64); `none` outside the
window (R61). -/
def windowByte (addr : Nat) (s : State) : Option Byte :=
  if inWindow Config.engineBase addr then
    let off := addr - Config.engineBase
    some (byteLane (busRead (BitVec.ofNat 6 off) s) (off % 4))
  else none

/-! ### Host operations -/

/-- The offset of STATUS (R21). -/
def statusOffset : Offset := 0x08#6

/-- Deliver a port transaction: only a word-aligned offset is an engine access (R63). -/
def deliverPort (a : BusAccess) : Except Refusal BusAccess :=
  if a.wellFormed then .ok a else .error .unalignedAccess

/-- The bus adapter (R62-R64): the port transaction a host operation becomes, or why it is not an engine
access (log 6). -/
def deliver : HostOp → Except Refusal BusAccess
  | .access a => deliverPort a
  | .memWrite addr data =>
    if inWindow Config.engineBase addr then
      match data with
      | [b0, b1, b2, b3] => deliverPort (.write (BitVec.ofNat 6 (addr - Config.engineBase)) (wordOfBytes b0 b1 b2 b3))
      | _ => .error .notWholeWord
    else .error .outsideWindow
  | .memRead addr width =>
    if inWindow Config.engineBase addr then
      if width = 4 then deliverPort (.read (BitVec.ofNat 6 (addr - Config.engineBase))) else .error .notWholeWord
    else .error .outsideWindow
  | .wait => .ok (.read statusOffset)

/-- The host operations left after `op` was performed in `s`: a `WAIT` whose read shows DONE = 0 stays at
the head (R89). -/
def busAfter (op : HostOp) (rest : List HostOp) (s : State) : List HostOp :=
  match op with
  | .wait => if (busRead statusOffset s).getLsbD 1 then rest else op :: rest
  | .access _ => rest
  | .memWrite _ _ => rest
  | .memRead _ _ => rest

/-- Replace the host operations still to perform. -/
def setBus (ops : List HostOp) (s : State) : State := { s with env := { s.env with bus := ops } }

/-- One host step: the next host operation, one atomic access (R65, R70). A host with nothing to do leaves
everything as it is (log 9). -/
def hostStep (s : State) : Out :=
  match s.env.bus with
  | [] => .next s
  | op :: rest =>
    match deliver op with
    | .error r => .refused r
    | .ok a => .next (setBus (busAfter op rest s) (busAccess a s))

/-! ### Who moves -/

/-- The agent of this step: the head of `env.sched`, or a free choice (R11, R208) (log 2). -/
def currentMove (s : State) : Move :=
  match s.env.sched with
  | m :: _ => m
  | [] => Config.nextMove s.env.choices

/-- The state with this step's agent taken from `env.sched`, or one free choice drawn. -/
def afterMove (s : State) : State :=
  match s.env.sched with
  | _ :: ms => { s with env := { s.env with sched := ms } }
  | [] => { s with env := { s.env with choices := s.env.choices + 1 } }

end Sys2Proof.Machine
end

