-- ==== Sys2Proof/Machine/ModArith.lean ====
section
/-! DEFINITION. The modular arithmetic kernel: MODPOW, MODMUL and MODINV (42_modular_arithmetic.md R140-R152). -/

namespace Sys2Proof.Machine

/-- The square-and-multiply loop of R142 with accumulator `res`, current base and remaining exponent `e`.
`fuel` bounds the iterations (log 14). -/
def modPowLoop (m : Nat) : Nat → Nat → Nat → Nat → Nat
  | 0, res, _, _ => res
  | fuel + 1, res, base, e =>
    if e = 0 then res
    else modPowLoop m fuel (if e % 2 = 1 then res * base % m else res) (base * base % m) (e / 2)

/-- `ModPow(a, n, m)` (R142): the base is not reduced before the loop, and `n = 0` gives 1 (R143). -/
def modPow (a n m : Nat) : Nat := modPowLoop m n 1 a n

/-- The loop of `ExtEuclid` (R151), quotient form; `y > 0` inside, so `div` is the floor (R9). `fuel`
bounds the iterations (log 14). -/
def extEuclidLoop : Nat → Int → Int → Int → Int → Int × Int
  | 0, x, _, u, _ => (x, u)
  | fuel + 1, x, y, u, v =>
    if y = 0 then (x, u)
    else extEuclidLoop fuel y (x - x / y * y) v (u - x / y * v)

/-- `ExtEuclid(a, m)` (R151): the gcd and the coefficient of `a`. -/
def extEuclid (a m : Int) : Int × Int := extEuclidLoop m.toNat a m 1 0

/-- `ExecMODPOW(lat)` (R141). -/
def outcomeModpow (l : Latch) : CmdOutcome :=
  if l.m ≤ 0 ∨ l.a < 0 ∨ l.b < 0 then .err .preconditionViolation 0
  else .ok (modPow l.a.toNat l.b.toNat l.m.toNat) 0 false

/-- `ExecMODMUL(lat)` (R146). -/
def outcomeModmul (l : Latch) : CmdOutcome :=
  if l.m ≤ 0 ∨ l.a < 0 ∨ l.b < 0 then .err .preconditionViolation 0
  else .ok (l.a * l.b % l.m) 0 false

/-- `ExecMODINV(lat)` (R150): `u mod m` is the floor remainder (R9, R151). -/
def outcomeModinv (l : Latch) : CmdOutcome :=
  if l.m ≤ 0 ∨ l.a < 0 then .err .preconditionViolation 0
  else
    let gu := extEuclid l.a l.m
    if gu.1 ≠ 1 then .err .nonInvertibleInput gu.1 else .ok (gu.2 % l.m) 1 false

/-- MODPOW (R141): the completing engine step. -/
def execModpow (s : State) : Out := .next (complete (outcomeModpow s.lat) s)

/-- MODINV (R150): the completing engine step. -/
def execModinv (s : State) : Out := .next (complete (outcomeModinv s.lat) s)

/-- MODMUL (R146): the completing engine step. -/
def execModmul (s : State) : Out := .next (complete (outcomeModmul s.lat) s)

end Sys2Proof.Machine
end

