-- ==== Sys2Proof/Machine/Primality.lean ====
section
/-! DEFINITION. The primality tester and ISPRIME (41_primality.md R130-R133). -/

namespace Sys2Proof.Machine

/-- The loop of R131 and R132 from the odd candidate `d`: the first `d, d + 2, …` with `d * d <= n` that
divides `n`. `fuel` bounds the iterations (log 14). -/
def firstOddDivisor (n : Nat) : Nat → Nat → Option Nat
  | 0, _ => none
  | fuel + 1, d =>
    if d * d ≤ n then
      if n % d = 0 then some d else firstOddDivisor n fuel (d + 2)
    else none

/-- `IsPrime(n)` for `n >= 0` (R131). -/
def isPrimeNat (n : Nat) : Bool :=
  if n < 2 then false
  else if n = 2 then true
  else if n % 2 = 0 then false
  else (firstOddDivisor n n 3).isNone

/-- `IsPrime(n)` (R131): every negative `n` is `n < 2`. -/
def isPrime (n : Int) : Bool := if n < 2 then false else isPrimeNat n.toNat

/-- `Witness(n)` for `n >= 0` (R132). -/
def witnessNat (n : Nat) : Nat :=
  if n < 2 ∨ n = 2 then 0
  else if n % 2 = 0 then 2
  else (firstOddDivisor n n 3).getD 0

/-- `Witness(n)` (R132). -/
def witness (n : Int) : Nat := if n < 2 then 0 else witnessNat n.toNat

/-- `ExecISPRIME(lat)` (R133). -/
def outcomeIsprime (l : Latch) : CmdOutcome :=
  .ok (bitVal (isPrime l.a)) (witness l.a) (isPrime l.a)

/-- ISPRIME (R133): the completing engine step. -/
def execIsprime (s : State) : Out := .next (complete (outcomeIsprime s.lat) s)

end Sys2Proof.Machine
end

