-- ==== Sys2Proof/Machine/DomainParams.lean ====
section
/-! DEFINITION. The safe-prime validator and the generator finder (43_domain_parameters.md R160-R174). -/

namespace Sys2Proof.Machine

/-- `ExecSAFEPRIME_Q(lat)` (R161). -/
def outcomeSafeprimeQ (l : Latch) : CmdOutcome :=
  if l.a < 1 then .ok 0 0 false
  else
    let p := (l.a - 1) / 2
    let r := isPrime l.a && decide (l.a % 2 = 1) && isPrime p
    .ok (bitVal r) p r

/-- `ExecSAFEPRIME_P(lat)` (R165): the headroom bound is 2^30 - 1. -/
def outcomeSafeprimeP (l : Latch) : CmdOutcome :=
  if l.a < 0 ∨ l.a > 2 ^ 30 - 1 then .err .preconditionViolation 0
  else
    let q := 2 * l.a + 1
    let r := isPrime l.a && isPrime q
    .ok (bitVal r) q r

/-- `GenScan(q, filter)` from candidate `i` (R170). `fuel` bounds the iterations (log 14). -/
def genScan (q : Nat) (filter : Nat → Bool) : Nat → Nat → Option Nat
  | 0, _ => none
  | fuel + 1, i =>
    if i ≤ q - 1 then
      if filter i then some i else genScan q filter fuel (i + 1)
    else none

/-- Filter SUB, subgroup membership (R171). -/
def subOk (q p i : Nat) : Bool :=
  decide (i ≠ 1) && decide (i * i % q ≠ 1) && decide (modPow i p q = 1)

/-- Filter REF, the reference filter verbatim: the third test reduces modulo `p` (R172). -/
def refOk (q p i : Nat) : Bool :=
  decide (i ≠ 1) && decide (i * i % q ≠ 1) && decide (modPow i q p ≠ 1)

/-- `ExecGENFIND(lat, mode)` (R173), with the filter of the mode given `q`, `p` and the candidate. -/
def outcomeGenfind (filter : Nat → Nat → Nat → Bool) (l : Latch) : CmdOutcome :=
  if l.a < 3 then .err .preconditionViolation 0
  else
    let q := l.a.toNat
    let p := (q - 1) / 2
    match genScan q (filter q p) q 2 with
    | some g => .ok g p true
    | none => .err .domainConstructionFailure p

/-- SAFEPRIME.Q (R161): the completing engine step. -/
def execSafeprimeQ (s : State) : Out := .next (complete (outcomeSafeprimeQ s.lat) s)

/-- SAFEPRIME.P (R165): the completing engine step. -/
def execSafeprimeP (s : State) : Out := .next (complete (outcomeSafeprimeP s.lat) s)

/-- GENFIND.SUB (R173): the completing engine step. -/
def execGenfindSub (s : State) : Out := .next (complete (outcomeGenfind subOk s.lat) s)

/-- GENFIND.REF (R174): the completing engine step. -/
def execGenfindRef (s : State) : Out := .next (complete (outcomeGenfind refOk s.lat) s)

end Sys2Proof.Machine
end

