-- ==== Sys2Proof/Machine/Dispatch.lean ====
section
/-! DEFINITION. One arm per command (40_host_access.md R115). -/

namespace Sys2Proof.Machine

def exec (i : Instr) (s : State) : Host.Outcome State Fault Refusal :=
  match i with
  | .modpow => Sys2Proof.Machine.execModpow s
  | .modinv => Sys2Proof.Machine.execModinv s
  | .modmul => Sys2Proof.Machine.execModmul s
  | .isprime => Sys2Proof.Machine.execIsprime s
  | .safeprimeQ => Sys2Proof.Machine.execSafeprimeQ s
  | .safeprimeP => Sys2Proof.Machine.execSafeprimeP s
  | .genfindSub => Sys2Proof.Machine.execGenfindSub s
  | .genfindRef => Sys2Proof.Machine.execGenfindRef s

end Sys2Proof.Machine
end

