-- ==== Sys2Proof/Machine/Engine.lean ====
section
/-! DEFINITION. The engine sequencer (40_host_access.md R110, R114) and the outcome function of R115. -/

namespace Sys2Proof.Machine

/-- The outcome of a decoded command: the arms of R115. -/
def commandOutcome (i : Instr) (l : Latch) : CmdOutcome :=
  match i with
  | .modpow => outcomeModpow l
  | .modinv => outcomeModinv l
  | .modmul => outcomeModmul l
  | .isprime => outcomeIsprime l
  | .safeprimeQ => outcomeSafeprimeQ l
  | .safeprimeP => outcomeSafeprimeP l
  | .genfindSub => outcomeGenfind subOk l
  | .genfindRef => outcomeGenfind refOk l

/-- `Exec(lat)` (R115): a total function of the four latched words alone; decode precedes every check
(R114). -/
def latchOutcome (l : Latch) : CmdOutcome :=
  match decode l.cmd with
  | none => .err .illegalCommand 0
  | some i => commandOutcome i l

/-- An accepted illegal word completes with IllegalCommand and reads no operand (R85, R114). -/
def execIllegal (s : State) : Out := .next (complete (.err .illegalCommand 0) s)

/-- The completing engine step (R110, R114). -/
def finishCommand (s : State) : Out :=
  match decode s.lat.cmd with
  | some i => exec i s
  | none => execIllegal s

/-- One engine step (R110): none in IDLE; in BUSY it advances `work`, or completes the command when it is
the last one. -/
def engineStep (s : State) : Out :=
  match s.phase with
  | .idle => .next s
  | .busy => if s.work ≤ 1 then finishCommand s else .next { s with work := s.work - 1 }

/-- The step of the agent that moves (R11, R231). -/
def moveStep (m : Move) (s : State) : Out :=
  match m with
  | .host => hostStep s
  | .engine => engineStep s
  | .rst => .next (engineReset s)

/-- A CMD write of `w` just accepted, with the engine's last step next. -/
def loadCommand (w : Word) (s : State) : State :=
  let t := acceptRegs w s
  { t with work := 1, env := { t.env with sched := .engine :: t.env.sched } }

end Sys2Proof.Machine
end

