-- ==== Sys2Proof/Machine/Step.lean ====
section
/-! DEFINITION. One step of the machine: one step of one agent (00_scope.md R11; 20_memory.md R70). -/

namespace Sys2Proof.Machine

/-- One step: the agent whose turn it is takes one atomic step (R11, R65, R70). -/
def step (s : State) : Host.Outcome State Fault Refusal := moveStep (currentMove s) (afterMove s)

/-- The engine fetches nothing (R27, R73): its "fetch" is the accept of a CMD write. This is `s` with the
table word accepted as the command (R109) and the engine's completing step next (log 10). -/
def State.withFetchWord (s : State) (nbits w : Nat) : State := loadCommand (tableWord nbits w) s

end Sys2Proof.Machine
end

