-- ==== Sys2Proof/Machine/Datapath.lean ====
section
/-! DEFINITION. The 64-bit signed datapath (00_scope.md R5; 42_modular_arithmetic.md R140): the loops of R131,
R142 and R151 in wrapping 64-bit arithmetic. The meanings compute on exact integers (R9); claims say that
the two agree (log 13). -/

namespace Sys2Proof.Machine

/-- An operand register widened to the datapath: `sext_64` (R8). -/
def widen (w : Word) : BitVec 64 := w.signExtend 64

/-- A product formed on the datapath and reduced (R140). -/
def mulMod64 (x y m : BitVec 64) : BitVec 64 := (x * y).smod m

/-- The loop of R142 on the datapath. -/
def modPowLoop64 (m : BitVec 64) : Nat → BitVec 64 → BitVec 64 → BitVec 64 → BitVec 64
  | 0, res, _, _ => res
  | fuel + 1, res, base, e =>
    if e = 0#64 then res
    else
      modPowLoop64 m fuel (if e.getLsbD 0 then mulMod64 res base m else res) (mulMod64 base base m) (e >>> 1)

/-- `ModPow` on the datapath (R140, R142). -/
def modPow64 (a n m : Word) : BitVec 64 := modPowLoop64 (widen m) n.toNat 1#64 (widen a) (widen n)

/-- The loop of R151 on the datapath. -/
def extEuclidLoop64 : Nat → BitVec 64 → BitVec 64 → BitVec 64 → BitVec 64 → BitVec 64 × BitVec 64
  | 0, x, _, u, _ => (x, u)
  | fuel + 1, x, y, u, v =>
    if y = 0#64 then (x, u)
    else extEuclidLoop64 fuel y (x - x.sdiv y * y) v (u - x.sdiv y * v)

/-- `ExtEuclid` on the datapath (R140, R151). -/
def extEuclid64 (a m : Word) : BitVec 64 × BitVec 64 :=
  extEuclidLoop64 m.toNat (widen a) (widen m) 1#64 0#64

/-- The loop of R131 and R132 on the datapath: `d * d` needs more than 32 bits (R131). -/
def firstOddDivisor64 (n : BitVec 64) : Nat → BitVec 64 → Option (BitVec 64)
  | 0, _ => none
  | fuel + 1, d =>
    if (d * d).sle n then
      if n.smod d = 0#64 then some d else firstOddDivisor64 n fuel (d + 2#64)
    else none

end Sys2Proof.Machine
end

