-- ==== Sys2Proof/Machine/HostNotation.lean ====
section
/-! DEFINITION. The host notation of 30_encoding.md R88 and R89 as host operations, and the end of a host
program (40_host_access.md R118). A host's own computation and branches (`host:` lines) are outside the
block (log 15). -/

namespace Sys2Proof.Machine

/-- The offset of a named register (R21, R88). -/
def regOffset : Reg → Offset
  | .id => 0x00#6
  | .ctrl => 0x04#6
  | .status => 0x08#6
  | .cmd => 0x0C#6
  | .opa => 0x10#6
  | .opb => 0x14#6
  | .opm => 0x18#6
  | .res => 0x1C#6
  | .aux => 0x20#6

/-- `WR <reg>, <value>` (R88). -/
def opWr (r : Reg) (v : Word) : HostOp := .access (.write (regOffset r) v)

/-- `RD <reg>` (R88); the returned word goes to the replies. -/
def opRd (r : Reg) : HostOp := .access (.read (regOffset r))

/-- `CMD <mnemonic>` (R89). -/
def opCmd (i : Instr) : HostOp := opWr .cmd (encode i)

/-- `WAIT` (R89). -/
def opWait : HostOp := .wait

/-- `ACK` (R89): clear DONE. -/
def opAck : HostOp := opWr .status 0x00000002#32

/-- `SRST` (R89). -/
def opSrst : HostOp := opWr .ctrl 0x00000002#32

/-- `CALL <mnemonic> A=<x> B=<y> M=<z>` (R89): each operand write only where the operand is given. -/
def opsCall (i : Instr) (a b m : Option Word) : List HostOp :=
  (a.map (opWr .opa)).toList ++ (b.map (opWr .opb)).toList ++ (m.map (opWr .opm)).toList
    ++ [opCmd i, opWait, opRd .res, opRd .aux]

/-- A host program has ended when its last listed operation has been performed (R118). The engine may
still be busy. -/
def hostEnded (s : State) : Bool := s.env.bus.isEmpty

end Sys2Proof.Machine
end

