-- ==== Sys2Proof/Safety.lean ====
section
/-! DEFINITION. The terms the claims use: what a step did, what the result registers show, the reset values of
10_state.md R35 as a predicate, and the invariant of the command lifecycle. -/

namespace Sys2Proof.Machine

/-- The port transaction this step performs, when it is a host step that performs one. -/
def stepAccess (s : State) : Option BusAccess :=
  match currentMove s, s.env.bus with
  | .host, op :: _ =>
    match deliver op with
    | .ok a => some a
    | .error _ => none
  | _, _ => none

/-- This step writes `v` to the register `r`. -/
def StepWrites (s : State) (r : Reg) (v : Word) : Prop :=
  ∃ off, stepAccess s = some (.write off v) ∧ regAt off = some r

/-- This step completes the running command (R110). -/
def StepCompletes (s : State) : Prop := currentMove s = .engine ∧ s.phase = .busy ∧ s.work ≤ 1

/-- This step resets the engine: the reset input or a CTRL write with bit 1 set (R230). -/
def StepResets (s : State) : Prop :=
  currentMove s = .rst ∨ ∃ v : Word, StepWrites s .ctrl v ∧ v.getLsbD 1 = true

/-- This step accepts a command: a CMD write while idle (R104, R109). -/
def StepAccepts (s : State) : Prop := s.phase = .idle ∧ ∃ w, StepWrites s .cmd w

/-- A port transaction that requests a soft reset (R102). -/
def isSoftReset : BusAccess → Bool
  | .write off v => regAt off == some .ctrl && v.getLsbD 1
  | .read _ => false

/-- The result registers and flags show the outcome `o` (R111, R112). -/
def Shows (o : CmdOutcome) (s : State) : Prop :=
  match o with
  | .ok res aux bool =>
    s.res = word res ∧ s.aux = word aux ∧ s.statusBool = bool ∧ s.statusErrcode = none
  | .err code info =>
    s.res = 0 ∧ s.aux = word info ∧ s.statusBool = false ∧ s.statusErrcode = some code

/-- Every value of R35's table that is specified: `lat` and `work` are not. -/
def HasResetValues (s : State) : Prop :=
  s.ctrlIe = false ∧ s.statusDone = false ∧ s.statusBool = false ∧ s.statusOvr = false ∧
  s.statusErrcode = none ∧ s.cmd = 0 ∧ s.opa = 0 ∧ s.opb = 0 ∧ s.opm = 0 ∧ s.res = 0 ∧ s.aux = 0 ∧
  s.phase = .idle ∧ irq s = false ∧ busRead 0x00#6 s = 0x454C4707#32 ∧
  ∀ off : Offset, Offset.aligned off = true → off ≠ 0x00#6 → busRead off s = 0

/-- The state in which a command has just completed with the given result registers and flags, and
nothing else has changed (R65, R111, R112). -/
def completedWith (s : State) (res aux : Word) (bool : Bool) (err : Option CmdError) : State :=
  { s with
    res := res
    aux := aux
    statusBool := bool
    statusErrcode := err
    statusDone := true
    phase := .idle }

/-- The lifecycle invariant. While busy, DONE and ERRCODE are clear (R109, R211), CMD shows the running
command (R26, R113) and at least one engine step remains (R110). While DONE or an error shows, the engine
is idle and the result registers are exactly the outcome of the latched words (R65, R115, R209). -/
def State.Inv (s : State) : Prop :=
  (s.phase = .busy →
    s.statusDone = false ∧ s.statusErrcode = none ∧ s.lat.cmd = s.cmd ∧ 1 ≤ s.work) ∧
  (s.statusDone = true ∨ s.statusErrcode ≠ none →
    s.phase = .idle ∧ s.lat.cmd = s.cmd ∧ Shows (latchOutcome s.lat) s)

end Sys2Proof.Machine
end

