-- ==== Sys2Proof/Certificates/Slice0/Obligations.lean ====
section
/-! DEFINITION. The statements for the provers. Each docstring names the rule of spec/ it follows; results are
written with `toInt`, `toNat` and Mathlib's own functions, not with the model's. -/

open Sys2Proof Sys2Proof.Machine

/-! ### Reset and the invariant -/

/-- R231: a hardware reset sets every specified piece of state to R35's value, in one step, in every phase. -/
def Obligations.HardwareResetSetsResetValues : Prop :=
  ∀ (s : State) (ms : List Move), s.env.sched = .rst :: ms →
    ∃ t, step s = .next t ∧ HasResetValues t

/-- R232: a CTRL write with bit 1 set does the same in the step of the write, whatever bit 0 is, and a read of
CTRL afterwards returns 0. -/
def Obligations.SoftResetSetsResetValues : Prop :=
  ∀ (s : State) (v : Word), v.getLsbD 1 = true →
    HasResetValues (busWrite 0x04#6 v s) ∧ busRead 0x04#6 (busWrite 0x04#6 v s) = 0

/-- R233: a reset of either kind while busy abandons the command: the reset values hold, DONE is 0, `irq` is not
raised and no error code is set. Nothing else ends a command without completing it. After the reset the engine is
idle and takes no step (R110, R220): that an engine move then answers a state with only the schedule changed is the
model's DEDUCED stutter (log 9). -/
def Obligations.ResetAbandonsRunningCommand : Prop :=
  ∀ s t : State, s.phase = .busy → step s = .next t →
    (StepResets s →
      HasResetValues t ∧ t.statusDone = false ∧ irq t = false ∧ t.statusErrcode = none ∧
        ∀ ms, step { t with env := { t.env with sched := .engine :: ms } } =
          .next { t with env := { t.env with sched := ms } }) ∧
    (t.phase = .idle → ¬ StepResets s → StepCompletes s ∧ t.statusDone = true)

/-- The lifecycle invariant holds at reset. -/
def Obligations.InvHoldsAtReset : Prop := State.reset.Inv

/-- Every step of every agent keeps the lifecycle invariant: while busy, DONE and ERRCODE are clear, CMD
shows the running command and a step remains (R26, R109, R113, R211); while DONE or an error shows, the
engine is idle and RES, AUX, BOOL and ERRCODE are exactly `Exec(lat)` (R65, R115, R209). -/
def Obligations.StepKeepsInv : Prop :=
  ∀ s t : State, s.Inv → step s = .next t → t.Inv

/-! ### The register window -/

/-- R107: the value a read returns at every word offset. -/
def Obligations.ReadMapOfWindow : Prop :=
  ∀ s : State,
    let code : BitVec 4 :=
      match s.statusErrcode with
      | none => 0#4
      | some .illegalCommand => 1#4
      | some .preconditionViolation => 2#4
      | some .nonInvertibleInput => 3#4
      | some .domainConstructionFailure => 4#4
    busRead 0x00#6 s = 0x454C4707#32 ∧
    busRead 0x04#6 s = (BitVec.ofBool s.ctrlIe).zeroExtend 32 ∧
    busRead 0x08#6 s =
      (0#20 ++ code ++ 0#3 ++ BitVec.ofBool s.statusOvr ++ BitVec.ofBool s.statusBool
        ++ BitVec.ofBool (code != 0#4) ++ BitVec.ofBool s.statusDone
        ++ BitVec.ofBool (s.phase == .busy) : BitVec 32) ∧
    busRead 0x0C#6 s = s.cmd ∧
    busRead 0x10#6 s = s.opa ∧ busRead 0x14#6 s = s.opb ∧ busRead 0x18#6 s = s.opm ∧
    busRead 0x1C#6 s = s.res ∧ busRead 0x20#6 s = s.aux ∧
    ∀ off ∈ [0x24#6, 0x28#6, 0x2C#6, 0x30#6, 0x34#6, 0x38#6, 0x3C#6], busRead off s = 0

/-- R24 and R200, bit by bit: what each of the 32 bits of a STATUS read is. -/
def Obligations.StatusBitsAsTabulated : Prop :=
  ∀ (s : State) (i : Nat), i < 32 →
    (busRead 0x08#6 s).getLsbD i =
      if i = 0 then decide (s.phase = .busy)
      else if i = 1 then s.statusDone
      else if i = 2 then decide (s.statusErrcode ≠ none)
      else if i = 3 then s.statusBool
      else if i = 4 then s.statusOvr
      else if i = 8 then
        decide (s.statusErrcode = some .illegalCommand ∨ s.statusErrcode = some .nonInvertibleInput)
      else if i = 9 then
        decide (s.statusErrcode = some .preconditionViolation ∨ s.statusErrcode = some .nonInvertibleInput)
      else if i = 10 then decide (s.statusErrcode = some .domainConstructionFailure)
      else false

/-- R25: bit 2 of every STATUS read is 1 exactly when the ERRCODE field of that read is non-zero. -/
def Obligations.ErrBitFollowsErrcode : Prop :=
  ∀ s : State,
    (busRead 0x08#6 s).getLsbD 2 = true ↔ (busRead 0x08#6 s).extractLsb' 8 4 ≠ 0#4

/-- R108: a read transaction changes no register, flag, phase, latched value or `irq`. The record of returned
words is the model's own (log 7). -/
def Obligations.ReadsChangeNoState : Prop :=
  ∀ (s : State) (off : Offset),
    (∃ rs, busAccess (.read off) s = { s with env := { s.env with replies := rs } }) ∧
      (∀ o, busRead o (busAccess (.read off) s) = busRead o s) ∧ irq (busAccess (.read off) s) = irq s

/-- R102: a CTRL write with bit 1 clear changes IE only, in every phase, and `irq` follows at once; with bit
1 set it is a soft reset, which leaves IE = 0 whatever bit 0 is. -/
def Obligations.CtrlWriteActs : Prop :=
  ∀ (s : State) (v : Word),
    (v.getLsbD 1 = false →
      busWrite 0x04#6 v s = { s with ctrlIe := v.getLsbD 0 } ∧
        irq (busWrite 0x04#6 v s) = (v.getLsbD 0 && s.statusDone)) ∧
    (v.getLsbD 1 = true →
      HasResetValues (busWrite 0x04#6 v s) ∧ (busWrite 0x04#6 v s).ctrlIe = false)

/-- R103: a STATUS write clears DONE where bit 1 is 1 and OVR where bit 4 is 1 and nothing else; while busy
(in a state of the lifecycle invariant) a write of DONE alone changes nothing. -/
def Obligations.StatusWriteOneToClear : Prop :=
  ∀ (s : State) (v : Word),
    busWrite 0x08#6 v s =
      { s with
        statusDone := if v.getLsbD 1 then false else s.statusDone
        statusOvr := if v.getLsbD 4 then false else s.statusOvr } ∧
    (s.Inv → s.phase = .busy → v = 0x00000002#32 → busWrite 0x08#6 v s = s)

/-- R105: a write to OPA, OPB or OPM stores the word in that register in every phase and changes nothing
else, the latched operands included. -/
def Obligations.OperandWriteStores : Prop :=
  ∀ (s : State) (v : Word),
    busWrite 0x10#6 v s = { s with opa := v } ∧
    busWrite 0x14#6 v s = { s with opb := v } ∧
    busWrite 0x18#6 v s = { s with opm := v }

/-- R101, R106: a write to ID, RES, AUX or a reserved offset changes nothing. -/
def Obligations.IgnoredWritesChangeNothing : Prop :=
  ∀ (s : State) (v : Word),
    ∀ off ∈ [0x00#6, 0x1C#6, 0x20#6, 0x24#6, 0x28#6, 0x2C#6, 0x30#6, 0x34#6, 0x38#6, 0x3C#6],
      busWrite off v s = s

/-- R109: a CMD write while idle stores the word, latches it with the three operands, clears DONE and ERRCODE
and makes the engine busy; every other register and flag stays. Two clauses are the model's choice of log 3: the
count of engine steps to come is held in `work`, at least 1 by R110, and the accept draws at most a latency from
the surroundings. -/
def Obligations.AcceptLatchesOperands : Prop :=
  ∀ (s : State) (w : Word), s.phase = .idle →
    ∃ (k : Nat) (e : Env),
      busWrite 0x0C#6 w s =
        { s with
          cmd := w
          lat := { cmd := w, opa := s.opa, opb := s.opb, opm := s.opm }
          statusDone := false
          statusErrcode := none
          phase := .busy
          work := k
          env := e } ∧
      1 ≤ k ∧ e.bus = s.env.bus ∧ e.sched = s.env.sched ∧ e.replies = s.env.replies

/-- R113: a CMD write while busy sets OVR and changes nothing else; OVR then stays 1 until a STATUS write with
bit 4 set or a reset. -/
def Obligations.OverrunDropsTheWord : Prop :=
  (∀ (s : State) (w : Word), s.phase = .busy → busWrite 0x0C#6 w s = { s with statusOvr := true }) ∧
  ∀ s t : State, s.statusOvr = true → step s = .next t →
    t.statusOvr = true ∨ StepResets s ∨ ∃ v : Word, StepWrites s .status v ∧ v.getLsbD 4 = true

/-- A write to an operand register, to STATUS or to CTRL with bit 1 clear may be repeated; two soft resets are
one; a second CMD write right after an accepted one sets OVR. This is the spec's own inference (R67, marked
derived there). -/
def Obligations.RepeatedWrites : Prop :=
  ∀ (s : State) (v w : Word),
    (∀ off ∈ [0x08#6, 0x10#6, 0x14#6, 0x18#6], busWrite off v (busWrite off v s) = busWrite off v s) ∧
    busWrite 0x04#6 v (busWrite 0x04#6 v s) = busWrite 0x04#6 v s ∧
    (s.phase = .idle →
      busWrite 0x0C#6 w (busWrite 0x0C#6 v s) = { busWrite 0x0C#6 v s with statusOvr := true })

/-! ### The bus -/

/-- An access that is not to a word-aligned address, or whose width is not four bytes, takes no step (R63). The
names of the two refusals, and that the width is tested before the alignment, are the model's choice (log 6).
That the address is aligned exactly when the offset is, is DEDUCED (log 5). -/
def Obligations.UndeliverableAccessesRefused : Prop :=
  ∀ (s : State) (ms : List Move) (ops : List HostOp), s.env.sched = .host :: ms →
    (∀ (off : Offset) (v : Word), off.toNat % 4 ≠ 0 →
      (s.env.bus = .access (.write off v) :: ops ∨ s.env.bus = .access (.read off) :: ops) →
        step s = .refused .unalignedAccess) ∧
    (∀ addr, Config.engineBase ≤ addr → addr < Config.engineBase + 64 →
      (∀ data : List Byte, s.env.bus = .memWrite addr data :: ops →
        (data.length ≠ 4 → step s = .refused .notWholeWord) ∧
        (data.length = 4 → addr % 4 ≠ 0 → step s = .refused .unalignedAccess)) ∧
      (∀ width, s.env.bus = .memRead addr width :: ops →
        (width ≠ 4 → step s = .refused .notWholeWord) ∧
        (width = 4 → addr % 4 ≠ 0 → step s = .refused .unalignedAccess)))

/-- R61: an access outside the 64 bytes is no engine access; the refusal is the model's choice (log 6). -/
def Obligations.OutsideWindowRefused : Prop :=
  ∀ (s : State) (ms : List Move) (ops : List HostOp) (addr : Nat), s.env.sched = .host :: ms →
    (addr < Config.engineBase ∨ Config.engineBase + 64 ≤ addr) →
    (∀ data : List Byte, s.env.bus = .memWrite addr data :: ops → step s = .refused .outsideWindow) ∧
    (∀ width : Nat, s.env.bus = .memRead addr width :: ops → step s = .refused .outsideWindow)

/-- R64: byte `k` of the window word at `off` is bits `[8k+7:8k]`: on a byte-addressed bus a write of four
bytes is the port write of the word whose lanes they are, a read is the port read, and the byte at each
address is that lane. -/
def Obligations.ByteLanesLittleEndian : Prop :=
  ∀ (s : State) (ms : List Move) (ops : List HostOp) (off : Offset), off.toNat % 4 = 0 →
    s.env.sched = .host :: ms →
    (∀ w : Word,
      step (setBus (.memWrite (Config.engineBase + off.toNat)
          [w.extractLsb' 0 8, w.extractLsb' 8 8, w.extractLsb' 16 8, w.extractLsb' 24 8] :: ops) s) =
        step (setBus (.access (.write off w) :: ops) s)) ∧
    step (setBus (.memRead (Config.engineBase + off.toNat) 4 :: ops) s) =
      step (setBus (.access (.read off) :: ops) s) ∧
    ∀ k, k < 4 →
      windowByte (Config.engineBase + off.toNat + k) s = some ((busRead off s).extractLsb' (8 * k) 8)

/-- R65, R70, R100, R107: a host step performs the next port transaction and nothing else. A write is the window
write; a read returns the word of R107 and changes nothing of the engine. The queue is the model's own (log 2), as
is the record of the returned word at the head of `env.replies` (log 7). -/
def Obligations.HostStepPerformsAccess : Prop :=
  ∀ (s : State) (ms : List Move) (ops : List HostOp) (off : Offset), s.env.sched = .host :: ms →
    off.toNat % 4 = 0 →
    (∀ v : Word, s.env.bus = .access (.write off v) :: ops →
      step s = .next { busWrite off v s with env := { (busWrite off v s).env with sched := ms, bus := ops } }) ∧
    (s.env.bus = .access (.read off) :: ops →
      step s = .next { s with env := { s.env with
        sched := ms
        bus := ops
        replies := busRead off s :: s.env.replies } })

/-- R89: a step of `WAIT` reads STATUS and ends after the first read that shows DONE = 1. That `WAIT` is one
operation, which stays at the head of the host's queue until it ends, is the model's choice (log 15), as is the
record of the returned word at the head of `env.replies` (log 7). -/
def Obligations.WaitPollsUntilDone : Prop :=
  ∀ (s : State) (ms : List Move) (ops : List HostOp),
    s.env.sched = .host :: ms → s.env.bus = .wait :: ops →
    step s =
      .next { s with env := { s.env with
        sched := ms
        bus := if s.statusDone then ops else .wait :: ops
        replies := busRead 0x08#6 s :: s.env.replies } }

/-- R88, R89: the transactions the notation expands to: `WR` and `RD` at each register's offset, `CMD` with each
mnemonic's word, `ACK`, `SRST`, and `CALL` for every command and every choice of given operands. The entry `.wait`
for `WAIT` is the model's choice (log 15). -/
def Obligations.NotationExpands : Prop :=
  (∀ v : Word,
    opWr .id v = .access (.write 0x00#6 v) ∧ opWr .ctrl v = .access (.write 0x04#6 v) ∧
    opWr .status v = .access (.write 0x08#6 v) ∧ opWr .cmd v = .access (.write 0x0C#6 v) ∧
    opWr .opa v = .access (.write 0x10#6 v) ∧ opWr .opb v = .access (.write 0x14#6 v) ∧
    opWr .opm v = .access (.write 0x18#6 v) ∧ opWr .res v = .access (.write 0x1C#6 v) ∧
    opWr .aux v = .access (.write 0x20#6 v)) ∧
  (opRd .id = .access (.read 0x00#6) ∧ opRd .ctrl = .access (.read 0x04#6) ∧
    opRd .status = .access (.read 0x08#6) ∧ opRd .cmd = .access (.read 0x0C#6) ∧
    opRd .opa = .access (.read 0x10#6) ∧ opRd .opb = .access (.read 0x14#6) ∧
    opRd .opm = .access (.read 0x18#6) ∧ opRd .res = .access (.read 0x1C#6) ∧
    opRd .aux = .access (.read 0x20#6)) ∧
  (opCmd .modpow = .access (.write 0x0C#6 0x00000001#32) ∧
    opCmd .modinv = .access (.write 0x0C#6 0x00000002#32) ∧
    opCmd .modmul = .access (.write 0x0C#6 0x00000003#32) ∧
    opCmd .isprime = .access (.write 0x0C#6 0x00000004#32) ∧
    opCmd .safeprimeQ = .access (.write 0x0C#6 0x00000005#32) ∧
    opCmd .safeprimeP = .access (.write 0x0C#6 0x00000015#32) ∧
    opCmd .genfindSub = .access (.write 0x0C#6 0x00000006#32) ∧
    opCmd .genfindRef = .access (.write 0x0C#6 0x00000016#32)) ∧
  opWait = .wait ∧
  opAck = .access (.write 0x08#6 0x00000002#32) ∧
  opSrst = .access (.write 0x04#6 0x00000002#32) ∧
  ∀ (i : Instr) (x y m : Word),
    let a := HostOp.access (.write 0x10#6 x)
    let b := HostOp.access (.write 0x14#6 y)
    let c := HostOp.access (.write 0x18#6 m)
    let tail := [opCmd i, .wait, .access (.read 0x1C#6), .access (.read 0x20#6)]
    opsCall i (some x) (some y) (some m) = a :: b :: c :: tail ∧
    opsCall i (some x) (some y) none = a :: b :: tail ∧
    opsCall i (some x) none (some m) = a :: c :: tail ∧
    opsCall i (some x) none none = a :: tail ∧
    opsCall i none (some y) (some m) = b :: c :: tail ∧
    opsCall i none (some y) none = b :: tail ∧
    opsCall i none none (some m) = c :: tail ∧
    opsCall i none none none = tail

/-! ### The engine sequencer -/

/-- R110, R220: in phase IDLE the engine takes no step. -/
def Obligations.IdleEngineTakesNoStep : Prop :=
  ∀ (s : State) (ms : List Move), s.phase = .idle → s.env.sched = .engine :: ms →
    step s = .next { s with env := { s.env with sched := ms } }

/-- R110: an engine step that does not complete the command has no visible effect. -/
def Obligations.AdvanceHasNoVisibleEffect : Prop :=
  ∀ (s : State) (ms : List Move), s.phase = .busy → 2 ≤ s.work → s.env.sched = .engine :: ms →
    step s = .next { s with work := s.work - 1, env := { s.env with sched := ms } } ∧
      (∀ off, busRead off { s with work := s.work - 1 } = busRead off s) ∧
      irq { s with work := s.work - 1 } = irq s

/-- R110, R115: the last engine step of a running command is `exec` of the decoded command. -/
def Obligations.StepRunsDecodedCommand : Prop :=
  ∀ (s : State) (ms : List Move) (i : Instr),
    s.phase = .busy → s.work ≤ 1 → s.env.sched = .engine :: ms → decode s.lat.cmd = some i →
    step s = exec i { s with env := { s.env with sched := ms } }

/-- R85: a word with any of the listed defects completes with IllegalCommand, RES = 0 and AUX = 0. -/
def Obligations.IllegalWordCompletes : Prop :=
  ∀ (s : State) (ms : List Move),
    let w := s.lat.cmd
    let op := (w.extractLsb' 0 4).toNat
    let fn := (w.extractLsb' 4 4).toNat
    s.phase = .busy → s.work ≤ 1 → s.env.sched = .engine :: ms →
    (w.extractLsb' 8 24 ≠ 0#24 ∨ op = 0 ∨ 7 ≤ op ∨ (1 ≤ op ∧ op ≤ 4 ∧ fn ≠ 0) ∨
      ((op = 5 ∨ op = 6) ∧ 1 < fn)) →
    step s =
      .next (completedWith { s with env := { s.env with sched := ms } } 0 0 false (some .illegalCommand))

/-- R84, R86: every word is one of the eight or illegal. -/
def Obligations.EveryWordIsTableWordOrIllegal : Prop :=
  ∀ w : Word,
    (decode w = some .modpow ↔ w = 0x00000001#32) ∧
    (decode w = some .modinv ↔ w = 0x00000002#32) ∧
    (decode w = some .modmul ↔ w = 0x00000003#32) ∧
    (decode w = some .isprime ↔ w = 0x00000004#32) ∧
    (decode w = some .safeprimeQ ↔ w = 0x00000005#32) ∧
    (decode w = some .safeprimeP ↔ w = 0x00000015#32) ∧
    (decode w = some .genfindSub ↔ w = 0x00000006#32) ∧
    (decode w = some .genfindRef ↔ w = 0x00000016#32)

/-- Decode and encode agree on bytes, both ways: a byte string decodes to `i` with the rest `rest` exactly
when it is the encoding of `i` followed by `rest` (R64, R84, R87). -/
def Obligations.DecodeBytesInvertsEncodeBytes : Prop :=
  ∀ (bs rest : List Byte) (i : Instr),
    i.wellFormed = true ∧ decodeBytes bs = .ok (i, rest) ↔ bs = encodeBytes i ++ rest

/-- R82: words written out from the fields RSVD, FN and OP decode to their commands. -/
def Obligations.WrittenWordsDecode : Prop :=
  decode (0#24 ++ 0#4 ++ 1#4) = some .modpow ∧ decode (0#24 ++ 0#4 ++ 4#4) = some .isprime ∧
  decode (0#24 ++ 1#4 ++ 5#4) = some .safeprimeP ∧ decode (0#24 ++ 1#4 ++ 6#4) = some .genfindRef ∧
  decode (0#24 ++ 1#4 ++ 4#4) = none ∧ decode (0#24 ++ 0#4 ++ 0#4) = none

/-- R65, R111, R112: every command completes in one step that changes RES, AUX, BOOL, ERRCODE, DONE and the
phase together and nothing else. -/
def Obligations.EveryCommandCompletesWithFrame : Prop :=
  ∀ (i : Instr) (s : State), ∃ res aux bool err,
    exec i s = .next (completedWith s res aux bool err)

/-- R115: a command's results depend on the latched operands alone: not on CTRL, earlier results, the live
operand registers or anything else. -/
def Obligations.ResultsDependOnLatchOnly : Prop :=
  ∀ (i : Instr) (s t : State), s.lat = t.lat → ∃ res aux bool err,
    exec i s = .next (completedWith s res aux bool err) ∧
      exec i t = .next (completedWith t res aux bool err)

/-- R83: a register a command does not read has no effect on it, whatever it holds. -/
def Obligations.UnreadOperandsHaveNoEffect : Prop :=
  ∀ (s : State) (x y : Word),
    (∃ res aux bool err,
      exec .modinv s = .next (completedWith s res aux bool err) ∧
      exec .modinv { s with lat := { s.lat with opb := x } } =
        .next (completedWith { s with lat := { s.lat with opb := x } } res aux bool err)) ∧
    ∀ i ∈ [Instr.isprime, .safeprimeQ, .safeprimeP, .genfindSub, .genfindRef],
      ∃ res aux bool err,
        exec i s = .next (completedWith s res aux bool err) ∧
        exec i { s with lat := { s.lat with opb := x, opm := y } } =
          .next (completedWith { s with lat := { s.lat with opb := x, opm := y } } res aux bool err)

/-! ### The commands -/

/-- R141-R143: MODPOW gives a^n mod m for n >= 1 and 1 for n = 0 (m = 1 included), or
PreconditionViolation. -/
def Obligations.ModpowResult : Prop :=
  decode 0x00000001#32 = some .modpow ∧
  ∀ s : State,
    (0 < s.lat.opm.toInt → 0 ≤ s.lat.opa.toInt → 0 ≤ s.lat.opb.toInt →
      exec .modpow s = .next (completedWith s
        (if s.lat.opb = 0 then 1
          else BitVec.ofNat 32 (s.lat.opa.toNat ^ s.lat.opb.toNat % s.lat.opm.toNat)) 0 false none)) ∧
    (s.lat.opm.toInt ≤ 0 ∨ s.lat.opa.toInt < 0 ∨ s.lat.opb.toInt < 0 →
      exec .modpow s = .next (completedWith s 0 0 false (some .preconditionViolation)))

/-- R146: MODMUL gives (a * b) mod m, or PreconditionViolation. -/
def Obligations.ModmulResult : Prop :=
  decode 0x00000003#32 = some .modmul ∧
  ∀ s : State,
    (0 < s.lat.opm.toInt → 0 ≤ s.lat.opa.toInt → 0 ≤ s.lat.opb.toInt →
      exec .modmul s = .next (completedWith s
        (BitVec.ofNat 32 (s.lat.opa.toNat * s.lat.opb.toNat % s.lat.opm.toNat)) 0 false none)) ∧
    (s.lat.opm.toInt ≤ 0 ∨ s.lat.opa.toInt < 0 ∨ s.lat.opb.toInt < 0 →
      exec .modmul s = .next (completedWith s 0 0 false (some .preconditionViolation)))

/-- R150: MODINV gives the inverse of a modulo m, in [0, m), with AUX = 1; NonInvertibleInput with AUX =
gcd(a, m) when that is not 1; PreconditionViolation when m <= 0 or a < 0. -/
def Obligations.ModinvResult : Prop :=
  decode 0x00000002#32 = some .modinv ∧
  ∀ s : State,
    (0 < s.lat.opm.toInt → 0 ≤ s.lat.opa.toInt → Nat.gcd s.lat.opa.toNat s.lat.opm.toNat = 1 →
      ∃ r : Nat, r < s.lat.opm.toNat ∧ s.lat.opa.toNat * r ≡ 1 [MOD s.lat.opm.toNat] ∧
        exec .modinv s = .next (completedWith s (BitVec.ofNat 32 r) 1 false none)) ∧
    (0 < s.lat.opm.toInt → 0 ≤ s.lat.opa.toInt → Nat.gcd s.lat.opa.toNat s.lat.opm.toNat ≠ 1 →
      exec .modinv s = .next (completedWith s 0
        (BitVec.ofNat 32 (Nat.gcd s.lat.opa.toNat s.lat.opm.toNat)) false (some .nonInvertibleInput))) ∧
    (s.lat.opm.toInt ≤ 0 ∨ s.lat.opa.toInt < 0 →
      exec .modinv s = .next (completedWith s 0 0 false (some .preconditionViolation)))

/-- `ExtEuclid` returns the gcd and a coefficient of `a`, and for gcd 1 the coefficient lies strictly between -m
and m. R151 marks these facts as general knowledge. -/
def Obligations.ExtEuclidIsBezout : Prop :=
  ∀ a m : Int, 0 ≤ a → 0 < m →
    (extEuclid a m).1 = Int.gcd a m ∧ a * (extEuclid a m).2 ≡ (extEuclid a m).1 [ZMOD m] ∧
      ((extEuclid a m).1 = 1 → -m < (extEuclid a m).2 ∧ (extEuclid a m).2 < m)

/-- R130-R133: ISPRIME decides primality of every signed word; AUX is the smallest divisor above 1 of a
composite and 0 otherwise. -/
def Obligations.IsprimeResult : Prop :=
  decode 0x00000004#32 = some .isprime ∧
  ∀ (s : State) (r : Bool), (r = true ↔ Nat.Prime s.lat.opa.toInt.toNat) →
    exec .isprime s = .next (completedWith s (if r then 1 else 0)
      (if s.lat.opa.toInt < 2 ∨ r then 0 else BitVec.ofNat 32 s.lat.opa.toNat.minFac) r none)

/-- R160, R161: SAFEPRIME.Q says whether q and (q - 1)/2 are both prime; AUX = (q - 1) div 2, or 0 for
q < 1. -/
def Obligations.SafeprimeQResult : Prop :=
  decode 0x00000005#32 = some .safeprimeQ ∧
  ∀ (s : State) (r : Bool),
    (r = true ↔ 1 ≤ s.lat.opa.toInt ∧ Nat.Prime s.lat.opa.toNat ∧ Nat.Prime ((s.lat.opa.toNat - 1) / 2)) →
    exec .safeprimeQ s = .next (completedWith s (if r then 1 else 0)
      (if s.lat.opa.toInt < 1 then 0 else BitVec.ofNat 32 ((s.lat.opa.toNat - 1) / 2)) r none)

/-- R160, R165: SAFEPRIME.P says whether p and 2p + 1 are both prime, AUX = 2p + 1; PreconditionViolation
outside [0, 2^30 - 1]. -/
def Obligations.SafeprimePResult : Prop :=
  decode 0x00000015#32 = some .safeprimeP ∧
  ∀ (s : State) (r : Bool),
    (0 ≤ s.lat.opa.toInt → s.lat.opa.toInt ≤ 1073741823 →
      (r = true ↔ Nat.Prime s.lat.opa.toNat ∧ Nat.Prime (2 * s.lat.opa.toNat + 1)) →
      exec .safeprimeP s = .next (completedWith s (if r then 1 else 0)
        (BitVec.ofNat 32 (2 * s.lat.opa.toNat + 1)) r none)) ∧
    (s.lat.opa.toInt < 0 ∨ 1073741823 < s.lat.opa.toInt →
      exec .safeprimeP s = .next (completedWith s 0 0 false (some .preconditionViolation)))

/-- For 0 <= p <= 2^30 - 1, SAFEPRIME.P on p and SAFEPRIME.Q on 2p + 1 give the same RES and BOOL, and each the
other's operand in AUX. This is the spec's own inference (R166, marked derived there). -/
def Obligations.SafeprimeFormsAgree : Prop :=
  ∀ s t : State, 0 ≤ s.lat.opa.toInt → s.lat.opa.toInt ≤ 1073741823 →
    t.lat.opa = 2 * s.lat.opa + 1 →
    ∃ res bool,
      exec .safeprimeP s = .next (completedWith s res t.lat.opa bool none) ∧
      exec .safeprimeQ t = .next (completedWith t res s.lat.opa bool none)

/-- R170, R171, R173: GENFIND.SUB gives the first g in [2, q - 1] with g^2 mod q != 1 and g^p mod q = 1,
p = (q - 1) div 2; DomainConstructionFailure with AUX = p when there is none; PreconditionViolation for
q < 3. -/
def Obligations.GenfindSubResult : Prop :=
  decode 0x00000006#32 = some .genfindSub ∧
  ∀ s : State,
    let q := s.lat.opa.toNat
    let p := (q - 1) / 2
    let passes := fun g : Nat => 2 ≤ g ∧ g ≤ q - 1 ∧ g * g % q ≠ 1 ∧ g ^ p % q = 1
    (3 ≤ s.lat.opa.toInt →
      (∀ g, passes g → (∀ h, passes h → g ≤ h) →
        exec .genfindSub s = .next (completedWith s (BitVec.ofNat 32 g) (BitVec.ofNat 32 p) true none)) ∧
      ((∀ g, ¬ passes g) →
        exec .genfindSub s = .next (completedWith s 0 (BitVec.ofNat 32 p) false
          (some .domainConstructionFailure)))) ∧
    (s.lat.opa.toInt < 3 →
      exec .genfindSub s = .next (completedWith s 0 0 false (some .preconditionViolation)))

/-- R170, R172, R174: GENFIND.REF gives the first g in [2, q - 1] with g^2 mod q != 1 and g^q mod p != 1,
p = (q - 1) div 2; DomainConstructionFailure with AUX = p when there is none; PreconditionViolation for
q < 3. -/
def Obligations.GenfindRefResult : Prop :=
  decode 0x00000016#32 = some .genfindRef ∧
  ∀ s : State,
    let q := s.lat.opa.toNat
    let p := (q - 1) / 2
    let passes := fun g : Nat => 2 ≤ g ∧ g ≤ q - 1 ∧ g * g % q ≠ 1 ∧ g ^ q % p ≠ 1
    (3 ≤ s.lat.opa.toInt →
      (∀ g, passes g → (∀ h, passes h → g ≤ h) →
        exec .genfindRef s = .next (completedWith s (BitVec.ofNat 32 g) (BitVec.ofNat 32 p) true none)) ∧
      ((∀ g, ¬ passes g) →
        exec .genfindRef s = .next (completedWith s 0 (BitVec.ofNat 32 p) false
          (some .domainConstructionFailure)))) ∧
    (s.lat.opa.toInt < 3 →
      exec .genfindRef s = .next (completedWith s 0 0 false (some .preconditionViolation)))

/-- On a safe prime q >= 7 GENFIND.SUB succeeds with g in {2, 3, 4} of multiplicative order exactly p;
g = 2 exactly when q mod 8 is 1 or 7. This is the spec's own inference (R175, marked derived there). -/
def Obligations.GenfindSubOnSafePrime : Prop :=
  ∀ (s : State) (q p : Nat), s.lat.opa.toInt = q → q = 2 * p + 1 → q.Prime → p.Prime → 7 ≤ q →
    ∃ g : Nat, (g = 2 ∨ g = 3 ∨ g = 4) ∧ orderOf (g : ZMod q) = p ∧ (g = 2 ↔ q % 8 = 1 ∨ q % 8 = 7) ∧
      exec .genfindSub s = .next (completedWith s (BitVec.ofNat 32 g) (BitVec.ofNat 32 p) true none)

/-- On every safe prime q GENFIND.REF returns 2, of order p when q mod 8 is 7 and of order 2p
otherwise. This is the spec's own inference (R175, marked derived there). -/
def Obligations.GenfindRefOnSafePrime : Prop :=
  ∀ (s : State) (q p : Nat), s.lat.opa.toInt = q → q = 2 * p + 1 → q.Prime → p.Prime →
    exec .genfindRef s = .next (completedWith s 2 (BitVec.ofNat 32 p) true none) ∧
      orderOf (2 : ZMod q) = if q % 8 = 7 then p else 2 * p

/-! ### Errors and ranges -/

/-- R201: exactly the listed operand conditions raise PreconditionViolation. -/
def Obligations.PreconditionViolationsExactly : Prop :=
  ∀ (i : Instr) (s : State), ∃ t, exec i s = .next t ∧
    (t.statusErrcode = some .preconditionViolation ↔
      match i with
      | .modpow => s.lat.opm.toInt ≤ 0 ∨ s.lat.opa.toInt < 0 ∨ s.lat.opb.toInt < 0
      | .modmul => s.lat.opm.toInt ≤ 0 ∨ s.lat.opa.toInt < 0 ∨ s.lat.opb.toInt < 0
      | .modinv => s.lat.opm.toInt ≤ 0 ∨ s.lat.opa.toInt < 0
      | .safeprimeP => s.lat.opa.toInt < 0 ∨ 1073741823 < s.lat.opa.toInt
      | .genfindSub => s.lat.opa.toInt < 3
      | .genfindRef => s.lat.opa.toInt < 3
      | .isprime => False
      | .safeprimeQ => False)

/-- R200, R202: what a completion with an error records. IllegalCommand and PreconditionViolation have AUX = 0,
NonInvertibleInput comes from MODINV with AUX = gcd(a, m), DomainConstructionFailure from GENFIND with
AUX = (q - 1) div 2. RES = 0, BOOL = 0, ERR = 1, DONE = 1, and CMD and the operand registers keep their
values. -/
def Obligations.ErrorRecord : Prop :=
  ∀ (s t : State) (c : CmdError), StepCompletes s → step s = .next t → t.statusErrcode = some c →
    t.res = 0 ∧ t.statusBool = false ∧ t.statusDone = true ∧ (busRead 0x08#6 t).getLsbD 2 = true ∧
    t.cmd = s.cmd ∧ t.opa = s.opa ∧ t.opb = s.opb ∧ t.opm = s.opm ∧
    match c with
    | .illegalCommand => decode s.lat.cmd = none ∧ t.aux = 0
    | .preconditionViolation => decode s.lat.cmd ≠ none ∧ t.aux = 0
    | .nonInvertibleInput =>
      decode s.lat.cmd = some .modinv ∧ t.aux = BitVec.ofNat 32 (Nat.gcd s.lat.opa.toNat s.lat.opm.toNat)
    | .domainConstructionFailure =>
      (decode s.lat.cmd = some .genfindSub ∨ decode s.lat.cmd = some .genfindRef) ∧
        t.aux = BitVec.ofNat 32 ((s.lat.opa.toNat - 1) / 2)

/-- R5, R111, R112: every value a completion stores lies in its register's range, so storing loses
nothing. -/
def Obligations.StoredValuesFitRegisters : Prop :=
  ∀ l : Latch,
    (∀ res aux bool, latchOutcome l = .ok res aux bool →
      -2 ^ 31 ≤ res ∧ res ≤ 2 ^ 31 - 1 ∧ -2 ^ 31 ≤ aux ∧ aux ≤ 2 ^ 31 - 1) ∧
    ∀ code info, latchOutcome l = .err code info → 0 ≤ info ∧ info ≤ 2 ^ 31 - 1

/-- R5, R140: square-and-multiply and the modular product on the wrapping 64-bit datapath give exactly the
integer results. The wrapping loops are the
model's rendering of the datapath (log 13). -/
def Obligations.DatapathModPowExact : Prop :=
  ∀ a n m : Word, 0 ≤ a.toInt → 0 ≤ n.toInt → 0 < m.toInt →
    (modPow64 a n m).toInt = modPow a.toNat n.toNat m.toNat ∧
      (mulMod64 (widen a) (widen n) (widen m)).toInt = a.toInt * n.toInt % m.toInt

/-- R140, R151: extended Euclid on the wrapping 64-bit datapath gives exactly the integer results. The wrapping loops are the
model's rendering of the datapath (log 13). -/
def Obligations.DatapathExtEuclidExact : Prop :=
  ∀ a m : Word, 0 ≤ a.toInt → 0 < m.toInt →
    (extEuclid64 a m).1.toInt = (extEuclid a.toInt m.toInt).1 ∧
      (extEuclid64 a m).2.toInt = (extEuclid a.toInt m.toInt).2

/-- R131: trial division on the wrapping 64-bit datapath finds exactly the integer loop's divisor. The wrapping loops are the
model's rendering of the datapath (log 13). -/
def Obligations.DatapathTrialDivisionExact : Prop :=
  ∀ n : Word, 3 ≤ n.toInt →
    (firstOddDivisor64 (widen n) n.toNat 3#64).map BitVec.toNat = firstOddDivisor n.toNat n.toNat 3

/-! ### Whole-machine rules -/

/-- R34: who sets and who clears each flag, over every step of the machine. -/
def Obligations.FlagsChangeOnlyByTable : Prop :=
  ∀ s t : State, step s = .next t →
    (s.phase = .idle → t.phase = .busy → StepAccepts s) ∧
    (s.phase = .busy → t.phase = .idle → StepCompletes s ∨ StepResets s) ∧
    (s.statusDone = false → t.statusDone = true → StepCompletes s) ∧
    (s.statusDone = true → t.statusDone = false →
      StepResets s ∨ StepAccepts s ∨ ∃ v : Word, StepWrites s .status v ∧ v.getLsbD 1 = true) ∧
    (s.statusBool = false → t.statusBool = true →
      StepCompletes s ∧ ∃ i ∈ [Instr.isprime, .safeprimeQ, .safeprimeP, .genfindSub, .genfindRef],
        decode s.lat.cmd = some i) ∧
    (s.statusBool = true → t.statusBool = false → StepCompletes s ∨ StepResets s) ∧
    (t.statusErrcode ≠ s.statusErrcode → t.statusErrcode ≠ none → StepCompletes s) ∧
    (t.statusErrcode ≠ s.statusErrcode → StepCompletes s ∨ StepAccepts s ∨ StepResets s) ∧
    (s.statusOvr = false → t.statusOvr = true → s.phase = .busy ∧ ∃ w, StepWrites s .cmd w) ∧
    (s.statusOvr = true → t.statusOvr = false →
      StepResets s ∨ ∃ v : Word, StepWrites s .status v ∧ v.getLsbD 4 = true)

/-- R23, R26, R28, R29, R30, R33: who changes each register, over every step of the machine. -/
def Obligations.RegistersChangeOnlyByTheirWriters : Prop :=
  ∀ s t : State, step s = .next t →
    (t.res ≠ s.res ∨ t.aux ≠ s.aux → StepCompletes s ∨ StepResets s) ∧
    (t.cmd ≠ s.cmd ∨ t.lat ≠ s.lat → StepAccepts s ∨ StepResets s) ∧
    (t.opa ≠ s.opa → StepResets s ∨ StepWrites s .opa t.opa) ∧
    (t.opb ≠ s.opb → StepResets s ∨ StepWrites s .opb t.opb) ∧
    (t.opm ≠ s.opm → StepResets s ∨ StepWrites s .opm t.opm) ∧
    (t.ctrlIe ≠ s.ctrlIe → StepResets s ∨ ∃ v : Word, StepWrites s .ctrl v ∧ t.ctrlIe = v.getLsbD 0)

/-- R32, R206, R240: `irq` is IE AND DONE; it rises only in a completion with IE = 1 or a CTRL write of IE = 1
while DONE = 1, and falls only in a reset, an accept, an acknowledge or a CTRL write of IE = 0. -/
def Obligations.IrqEdges : Prop :=
  ∀ s t : State, step s = .next t →
    (irq t = true ↔ t.ctrlIe = true ∧ t.statusDone = true) ∧
    (irq s = false → irq t = true →
      (StepCompletes s ∧ s.ctrlIe = true) ∨
      (s.statusDone = true ∧ ∃ v : Word, StepWrites s .ctrl v ∧ v.getLsbD 0 = true ∧ v.getLsbD 1 = false)) ∧
    (irq s = true → irq t = false →
      StepResets s ∨ StepAccepts s ∨ (∃ v : Word, StepWrites s .status v ∧ v.getLsbD 1 = true) ∨
      ∃ v : Word, StepWrites s .ctrl v ∧ v.getLsbD 0 = false)

/-- R28, R73, R113, R237: no host step but a reset disturbs a running command: it stays busy with the same
latched words, remaining steps, CMD and results. -/
def Obligations.HostStepsLeaveRunningCommand : Prop :=
  ∀ s t : State, step s = .next t → s.phase = .busy → currentMove s = .host → ¬ StepResets s →
    t.phase = .busy ∧ t.lat = s.lat ∧ t.work = s.work ∧ t.cmd = s.cmd ∧ t.res = s.res ∧ t.aux = s.aux ∧
      t.statusBool = s.statusBool ∧ t.statusErrcode = s.statusErrcode

/-- A running command takes exactly `work` engine steps: it is busy before the last of them and complete after it,
with the outcome of its latched words. That `work` is the number of steps still to take is the model's
representation, which R33 allows (log 11), counted down from a latency that R110 leaves OPEN (log 3). -/
def Obligations.ExactlyWorkEngineSteps : Prop :=
  ∀ (s : State) (ms : List Move), s.phase = .busy → 1 ≤ s.work →
    s.env.sched = List.replicate s.work .engine ++ ms →
    (∀ k < s.work, ∃ t, Host.Core.run Sys2Proof.core k s = .next t ∧ State.phase t = .busy) ∧
    ∃ t, Host.Core.run Sys2Proof.core s.work s = .next t ∧ State.phase t = .idle ∧
      State.statusDone t = true ∧ Shows (latchOutcome s.lat) t

/-- R110, R117: whatever host steps interleave, a busy engine that is given its remaining steps completes the
command with the outcome of its latched words, unless a reset intervenes. -/
def Obligations.EveryInterleavingCompletes : Prop :=
  ∀ (s : State) (ms rest : List Move), s.phase = .busy → s.env.sched = ms ++ rest → .rst ∉ ms →
    max 1 s.work ≤ ms.count .engine →
    (∀ op ∈ s.env.bus, ∃ a, deliver op = .ok a ∧ isSoftReset a = false) →
    ∃ k t, k ≤ ms.length ∧ Host.Core.run Sys2Proof.core k s = .next t ∧ State.phase t = .idle ∧
      State.statusDone t = true ∧ State.lat t = s.lat ∧ Shows (latchOutcome s.lat) t

/-- R33: `lat` and `work` are not observable: no read and not `irq` depends on them, and while idle no step
does, until the next accept overwrites both. -/
def Obligations.LatAndWorkUnobservable : Prop :=
  ∀ (s : State) (l : Latch) (k : Nat),
    (∀ off, busRead off { s with lat := l, work := k } = busRead off s) ∧
    irq { s with lat := l, work := k } = irq s ∧
    (s.phase = .idle →
      (∀ r, step s = .refused r → step { s with lat := l, work := k } = .refused r) ∧
      ∀ t, step s = .next t →
        ∃ l' k', step { s with lat := l, work := k } = .next { t with lat := l', work := k' } ∧
          (t.phase = .busy → l' = t.lat ∧ k' = t.work))

/-- R208: a host access and a completion that come together are ordered either way. A CMD write gives an
overrun (write first) or a new accept (completion first); a soft reset gives the reset state both ways. -/
def Obligations.BothOrdersAdmitted : Prop :=
  ∀ (s : State) (ms : List Move) (ops : List HostOp) (w : Word), s.phase = .busy → s.work ≤ 1 →
    (s.env.bus = .access (.write 0x0C#6 w) :: ops →
      (s.env.sched = .host :: .engine :: ms →
        ∃ t, Host.Core.run Sys2Proof.core 2 s = .next t ∧ State.statusOvr t = true ∧
          State.phase t = .idle ∧ State.cmd t = s.cmd ∧ Shows (latchOutcome s.lat) t) ∧
      (s.env.sched = .engine :: .host :: ms →
        ∃ t, Host.Core.run Sys2Proof.core 2 s = .next t ∧ State.statusOvr t = s.statusOvr ∧
          State.phase t = .busy ∧ State.cmd t = w ∧
          State.lat t = { cmd := w, opa := s.opa, opb := s.opb, opm := s.opm })) ∧
    (s.env.bus = .access (.write 0x04#6 w) :: ops → w.getLsbD 1 = true →
      s.env.sched = .host :: .engine :: ms ∨ s.env.sched = .engine :: .host :: ms →
        ∃ t, Host.Core.run Sys2Proof.core 2 s = .next t ∧ HasResetValues t)

/-- In a state of the lifecycle invariant, a STATUS read while busy shows BUSY = 1 and DONE = 0, and
after the completing step it shows BUSY = 0 and DONE = 1. This is the spec's own inference (R241, marked
derived there). -/
def Obligations.PollingShowsBusyThenDone : Prop :=
  ∀ s : State, s.Inv → s.phase = .busy →
    (busRead 0x08#6 s).getLsbD 0 = true ∧ (busRead 0x08#6 s).getLsbD 1 = false ∧
    ∀ t, step s = .next t → StepCompletes s →
      (busRead 0x08#6 t).getLsbD 0 = false ∧ (busRead 0x08#6 t).getLsbD 1 = true

/-- Polling DONE (R241, the spec's own inference, marked derived there), step by step: an accept gives BUSY = 1 and
DONE = 0; every step but the completion and a reset keeps that; and BUSY = 0 with DONE = 1 stays until a STATUS
write with bit 1 set, the next accept or a reset. -/
def Obligations.StatusKeepsUntilAcknowledged : Prop :=
  ∀ s t : State, step s = .next t →
    (StepAccepts s → (busRead 0x08#6 t).getLsbD 0 = true ∧ (busRead 0x08#6 t).getLsbD 1 = false) ∧
    ((busRead 0x08#6 s).getLsbD 0 = true → (busRead 0x08#6 s).getLsbD 1 = false →
      ¬ StepCompletes s → ¬ StepResets s →
      (busRead 0x08#6 t).getLsbD 0 = true ∧ (busRead 0x08#6 t).getLsbD 1 = false) ∧
    ((busRead 0x08#6 s).getLsbD 0 = false → (busRead 0x08#6 s).getLsbD 1 = true →
      (∀ v : Word, StepWrites s .status v → v.getLsbD 1 = false) → ¬ StepAccepts s → ¬ StepResets s →
      (busRead 0x08#6 t).getLsbD 0 = false ∧ (busRead 0x08#6 t).getLsbD 1 = true)
end

