-- ==== Sys2Proof/Laws/Datapath.lean ====
section
/-! SUPPORT. What each operation of the 64-bit datapath answers when its operands are in range
(00_scope.md R5; 42_modular_arithmetic.md R140). -/

namespace Sys2Proof.Machine

/-- A datapath value that denotes a small natural number holds it unsigned as well. -/
theorem toNat_of_toInt {x : BitVec 64} {n : Nat} (h : x.toInt = n) (hn : n < 2 ^ 63) : x.toNat = n := by
  rw [BitVec.toInt_eq_toNat_cond] at h
  have := x.isLt
  split at h <;> omega

/-- A small unsigned datapath value denotes the same integer. -/
theorem toInt_of_toNat {x : BitVec 64} {n : Nat} (h : x.toNat = n) (hn : n < 2 ^ 63) : x.toInt = n := by
  rw [BitVec.toInt_eq_toNat_cond, h]
  split <;> omega

/-- Widening keeps the signed value. -/
theorem widen_toInt (w : Word) : (widen w).toInt = w.toInt := BitVec.toInt_signExtend_of_le (by decide)

/-- A non-negative operand is a 31-bit-range one, and widening keeps its unsigned value (R5). -/
theorem widen_toNat {w : Word} (h : 0 ≤ w.toInt) :
    (widen w).toNat = w.toNat ∧ w.toNat < 2 ^ 31 ∧ w.toInt = w.toNat := by
  have h1 : w.toNat < 2 ^ 31 ∧ w.toInt = w.toNat := by
    have := w.isLt
    rw [BitVec.toInt_eq_toNat_cond] at h ⊢
    split at h
    · exact ⟨by omega, by rw [if_pos (by omega)]⟩
    · omega
  exact ⟨toNat_of_toInt ((widen_toInt w).trans h1.2) (by omega), h1⟩

/-- A reduced product of two values below 2^31 is exact (R140). -/
theorem mulMod64_toNat {x y m : BitVec 64} {a b k : Nat} (hx : x.toNat = a) (hy : y.toNat = b)
    (hm : m.toNat = k) (ha : a < 2 ^ 31) (hb : b < 2 ^ 31) (hk : 0 < k) (hk' : k < 2 ^ 31) :
    (mulMod64 x y m).toNat = a * b % k := by
  have h0 : a * b < 2 ^ 62 := by nlinarith
  have h1 : (x * y).toNat = a * b := by
    rw [BitVec.toNat_mul, hx, hy]
    exact Nat.mod_eq_of_lt (by omega)
  have h2 : (x * y).toInt = (a * b : Nat) := toInt_of_toNat h1 (by omega)
  have h3 : m.toInt = k := toInt_of_toNat hm (by omega)
  have h4 : (mulMod64 x y m).toInt = ((a * b % k : Nat) : Int) := by
    unfold mulMod64
    rw [BitVec.toInt_smod, h2, h3, Int.fmod_eq_emod_of_nonneg _ (by positivity)]
    norm_cast
  exact toNat_of_toInt h4 (lt_of_lt_of_le (Nat.mod_lt _ hk) (by omega))

end Sys2Proof.Machine
end

