-- ==== Sys2Proof/Laws/State.lean ====
section
/-! SUPPORT. The small lemmas of the state's updates: one per field and update, so that no proof unfolds a
record update. -/

namespace Sys2Proof.Machine

/-! ### `completeOk` -/

@[simp] theorem completeOk_ctrlIe (r a : Int) (b : Bool) (s : State) : (completeOk r a b s).ctrlIe = s.ctrlIe := rfl
@[simp] theorem completeOk_statusDone (r a : Int) (b : Bool) (s : State) : (completeOk r a b s).statusDone = true := rfl
@[simp] theorem completeOk_statusBool (r a : Int) (b : Bool) (s : State) : (completeOk r a b s).statusBool = b := rfl
@[simp] theorem completeOk_statusOvr (r a : Int) (b : Bool) (s : State) : (completeOk r a b s).statusOvr = s.statusOvr := rfl
@[simp] theorem completeOk_statusErrcode (r a : Int) (b : Bool) (s : State) : (completeOk r a b s).statusErrcode = none := rfl
@[simp] theorem completeOk_cmd (r a : Int) (b : Bool) (s : State) : (completeOk r a b s).cmd = s.cmd := rfl
@[simp] theorem completeOk_opa (r a : Int) (b : Bool) (s : State) : (completeOk r a b s).opa = s.opa := rfl
@[simp] theorem completeOk_opb (r a : Int) (b : Bool) (s : State) : (completeOk r a b s).opb = s.opb := rfl
@[simp] theorem completeOk_opm (r a : Int) (b : Bool) (s : State) : (completeOk r a b s).opm = s.opm := rfl
@[simp] theorem completeOk_res (r a : Int) (b : Bool) (s : State) : (completeOk r a b s).res = word r := rfl
@[simp] theorem completeOk_aux (r a : Int) (b : Bool) (s : State) : (completeOk r a b s).aux = word a := rfl
@[simp] theorem completeOk_phase (r a : Int) (b : Bool) (s : State) : (completeOk r a b s).phase = .idle := rfl
@[simp] theorem completeOk_lat (r a : Int) (b : Bool) (s : State) : (completeOk r a b s).lat = s.lat := rfl
@[simp] theorem completeOk_work (r a : Int) (b : Bool) (s : State) : (completeOk r a b s).work = s.work := rfl
@[simp] theorem completeOk_env (r a : Int) (b : Bool) (s : State) : (completeOk r a b s).env = s.env := rfl

/-! ### `completeErr` -/

@[simp] theorem completeErr_ctrlIe (e : CmdError) (n : Int) (s : State) : (completeErr e n s).ctrlIe = s.ctrlIe := rfl
@[simp] theorem completeErr_statusDone (e : CmdError) (n : Int) (s : State) : (completeErr e n s).statusDone = true := rfl
@[simp] theorem completeErr_statusBool (e : CmdError) (n : Int) (s : State) : (completeErr e n s).statusBool = false := rfl
@[simp] theorem completeErr_statusOvr (e : CmdError) (n : Int) (s : State) : (completeErr e n s).statusOvr = s.statusOvr := rfl
@[simp] theorem completeErr_statusErrcode (e : CmdError) (n : Int) (s : State) : (completeErr e n s).statusErrcode = some e := rfl
@[simp] theorem completeErr_cmd (e : CmdError) (n : Int) (s : State) : (completeErr e n s).cmd = s.cmd := rfl
@[simp] theorem completeErr_opa (e : CmdError) (n : Int) (s : State) : (completeErr e n s).opa = s.opa := rfl
@[simp] theorem completeErr_opb (e : CmdError) (n : Int) (s : State) : (completeErr e n s).opb = s.opb := rfl
@[simp] theorem completeErr_opm (e : CmdError) (n : Int) (s : State) : (completeErr e n s).opm = s.opm := rfl
@[simp] theorem completeErr_res (e : CmdError) (n : Int) (s : State) : (completeErr e n s).res = 0 := rfl
@[simp] theorem completeErr_aux (e : CmdError) (n : Int) (s : State) : (completeErr e n s).aux = word n := rfl
@[simp] theorem completeErr_phase (e : CmdError) (n : Int) (s : State) : (completeErr e n s).phase = .idle := rfl
@[simp] theorem completeErr_lat (e : CmdError) (n : Int) (s : State) : (completeErr e n s).lat = s.lat := rfl
@[simp] theorem completeErr_work (e : CmdError) (n : Int) (s : State) : (completeErr e n s).work = s.work := rfl
@[simp] theorem completeErr_env (e : CmdError) (n : Int) (s : State) : (completeErr e n s).env = s.env := rfl

/-! ### `complete` -/

@[simp] theorem complete_ctrlIe (o : CmdOutcome) (s : State) : (complete o s).ctrlIe = s.ctrlIe := by cases o <;> rfl
@[simp] theorem complete_statusDone (o : CmdOutcome) (s : State) : (complete o s).statusDone = true := by cases o <;> rfl
@[simp] theorem complete_statusOvr (o : CmdOutcome) (s : State) : (complete o s).statusOvr = s.statusOvr := by cases o <;> rfl
@[simp] theorem complete_cmd (o : CmdOutcome) (s : State) : (complete o s).cmd = s.cmd := by cases o <;> rfl
@[simp] theorem complete_opa (o : CmdOutcome) (s : State) : (complete o s).opa = s.opa := by cases o <;> rfl
@[simp] theorem complete_opb (o : CmdOutcome) (s : State) : (complete o s).opb = s.opb := by cases o <;> rfl
@[simp] theorem complete_opm (o : CmdOutcome) (s : State) : (complete o s).opm = s.opm := by cases o <;> rfl
@[simp] theorem complete_phase (o : CmdOutcome) (s : State) : (complete o s).phase = .idle := by cases o <;> rfl
@[simp] theorem complete_lat (o : CmdOutcome) (s : State) : (complete o s).lat = s.lat := by cases o <;> rfl
@[simp] theorem complete_work (o : CmdOutcome) (s : State) : (complete o s).work = s.work := by cases o <;> rfl
@[simp] theorem complete_env (o : CmdOutcome) (s : State) : (complete o s).env = s.env := by cases o <;> rfl

/-! ### `writeStatus` -/

@[simp] theorem writeStatus_ctrlIe (v : Word) (s : State) : (writeStatus v s).ctrlIe = s.ctrlIe := rfl
@[simp] theorem writeStatus_statusDone (v : Word) (s : State) : (writeStatus v s).statusDone = (s.statusDone && !v.getLsbD 1) := rfl
@[simp] theorem writeStatus_statusBool (v : Word) (s : State) : (writeStatus v s).statusBool = s.statusBool := rfl
@[simp] theorem writeStatus_statusOvr (v : Word) (s : State) : (writeStatus v s).statusOvr = (s.statusOvr && !v.getLsbD 4) := rfl
@[simp] theorem writeStatus_statusErrcode (v : Word) (s : State) : (writeStatus v s).statusErrcode = s.statusErrcode := rfl
@[simp] theorem writeStatus_cmd (v : Word) (s : State) : (writeStatus v s).cmd = s.cmd := rfl
@[simp] theorem writeStatus_opa (v : Word) (s : State) : (writeStatus v s).opa = s.opa := rfl
@[simp] theorem writeStatus_opb (v : Word) (s : State) : (writeStatus v s).opb = s.opb := rfl
@[simp] theorem writeStatus_opm (v : Word) (s : State) : (writeStatus v s).opm = s.opm := rfl
@[simp] theorem writeStatus_res (v : Word) (s : State) : (writeStatus v s).res = s.res := rfl
@[simp] theorem writeStatus_aux (v : Word) (s : State) : (writeStatus v s).aux = s.aux := rfl
@[simp] theorem writeStatus_phase (v : Word) (s : State) : (writeStatus v s).phase = s.phase := rfl
@[simp] theorem writeStatus_lat (v : Word) (s : State) : (writeStatus v s).lat = s.lat := rfl
@[simp] theorem writeStatus_work (v : Word) (s : State) : (writeStatus v s).work = s.work := rfl
@[simp] theorem writeStatus_env (v : Word) (s : State) : (writeStatus v s).env = s.env := rfl

/-! ### `engineReset` -/

@[simp] theorem engineReset_ctrlIe (s : State) : (engineReset s).ctrlIe = false := rfl
@[simp] theorem engineReset_statusDone (s : State) : (engineReset s).statusDone = false := rfl
@[simp] theorem engineReset_statusBool (s : State) : (engineReset s).statusBool = false := rfl
@[simp] theorem engineReset_statusOvr (s : State) : (engineReset s).statusOvr = false := rfl
@[simp] theorem engineReset_statusErrcode (s : State) : (engineReset s).statusErrcode = none := rfl
@[simp] theorem engineReset_cmd (s : State) : (engineReset s).cmd = 0 := rfl
@[simp] theorem engineReset_opa (s : State) : (engineReset s).opa = 0 := rfl
@[simp] theorem engineReset_opb (s : State) : (engineReset s).opb = 0 := rfl
@[simp] theorem engineReset_opm (s : State) : (engineReset s).opm = 0 := rfl
@[simp] theorem engineReset_res (s : State) : (engineReset s).res = 0 := rfl
@[simp] theorem engineReset_aux (s : State) : (engineReset s).aux = 0 := rfl
@[simp] theorem engineReset_phase (s : State) : (engineReset s).phase = .idle := rfl
@[simp] theorem engineReset_lat (s : State) : (engineReset s).lat = Latch.zero := rfl
@[simp] theorem engineReset_work (s : State) : (engineReset s).work = 0 := rfl
@[simp] theorem engineReset_env (s : State) : (engineReset s).env = s.env := rfl

/-! ### `acceptRegs` -/

@[simp] theorem acceptRegs_ctrlIe (w : Word) (s : State) : (acceptRegs w s).ctrlIe = s.ctrlIe := rfl
@[simp] theorem acceptRegs_statusDone (w : Word) (s : State) : (acceptRegs w s).statusDone = false := rfl
@[simp] theorem acceptRegs_statusBool (w : Word) (s : State) : (acceptRegs w s).statusBool = s.statusBool := rfl
@[simp] theorem acceptRegs_statusOvr (w : Word) (s : State) : (acceptRegs w s).statusOvr = s.statusOvr := rfl
@[simp] theorem acceptRegs_statusErrcode (w : Word) (s : State) : (acceptRegs w s).statusErrcode = none := rfl
@[simp] theorem acceptRegs_cmd (w : Word) (s : State) : (acceptRegs w s).cmd = w := rfl
@[simp] theorem acceptRegs_opa (w : Word) (s : State) : (acceptRegs w s).opa = s.opa := rfl
@[simp] theorem acceptRegs_opb (w : Word) (s : State) : (acceptRegs w s).opb = s.opb := rfl
@[simp] theorem acceptRegs_opm (w : Word) (s : State) : (acceptRegs w s).opm = s.opm := rfl
@[simp] theorem acceptRegs_res (w : Word) (s : State) : (acceptRegs w s).res = s.res := rfl
@[simp] theorem acceptRegs_aux (w : Word) (s : State) : (acceptRegs w s).aux = s.aux := rfl
@[simp] theorem acceptRegs_phase (w : Word) (s : State) : (acceptRegs w s).phase = .busy := rfl
@[simp] theorem acceptRegs_lat (w : Word) (s : State) : (acceptRegs w s).lat = ⟨w, s.opa, s.opb, s.opm⟩ := rfl
@[simp] theorem acceptRegs_work (w : Word) (s : State) : (acceptRegs w s).work = s.work := rfl
@[simp] theorem acceptRegs_env (w : Word) (s : State) : (acceptRegs w s).env = s.env := rfl

/-! ### `startWork` -/

@[simp] theorem startWork_ctrlIe (s : State) : (startWork s).ctrlIe = s.ctrlIe := by unfold startWork; split <;> rfl
@[simp] theorem startWork_statusDone (s : State) : (startWork s).statusDone = s.statusDone := by unfold startWork; split <;> rfl
@[simp] theorem startWork_statusBool (s : State) : (startWork s).statusBool = s.statusBool := by unfold startWork; split <;> rfl
@[simp] theorem startWork_statusOvr (s : State) : (startWork s).statusOvr = s.statusOvr := by unfold startWork; split <;> rfl
@[simp] theorem startWork_statusErrcode (s : State) : (startWork s).statusErrcode = s.statusErrcode := by unfold startWork; split <;> rfl
@[simp] theorem startWork_cmd (s : State) : (startWork s).cmd = s.cmd := by unfold startWork; split <;> rfl
@[simp] theorem startWork_opa (s : State) : (startWork s).opa = s.opa := by unfold startWork; split <;> rfl
@[simp] theorem startWork_opb (s : State) : (startWork s).opb = s.opb := by unfold startWork; split <;> rfl
@[simp] theorem startWork_opm (s : State) : (startWork s).opm = s.opm := by unfold startWork; split <;> rfl
@[simp] theorem startWork_res (s : State) : (startWork s).res = s.res := by unfold startWork; split <;> rfl
@[simp] theorem startWork_aux (s : State) : (startWork s).aux = s.aux := by unfold startWork; split <;> rfl
@[simp] theorem startWork_phase (s : State) : (startWork s).phase = s.phase := by unfold startWork; split <;> rfl
@[simp] theorem startWork_lat (s : State) : (startWork s).lat = s.lat := by unfold startWork; split <;> rfl

/-! ### `accept` -/

@[simp] theorem accept_ctrlIe (w : Word) (s : State) : (accept w s).ctrlIe = s.ctrlIe := by simp [accept]
@[simp] theorem accept_statusDone (w : Word) (s : State) : (accept w s).statusDone = false := by simp [accept]
@[simp] theorem accept_statusBool (w : Word) (s : State) : (accept w s).statusBool = s.statusBool := by simp [accept]
@[simp] theorem accept_statusOvr (w : Word) (s : State) : (accept w s).statusOvr = s.statusOvr := by simp [accept]
@[simp] theorem accept_statusErrcode (w : Word) (s : State) : (accept w s).statusErrcode = none := by simp [accept]
@[simp] theorem accept_cmd (w : Word) (s : State) : (accept w s).cmd = w := by simp [accept]
@[simp] theorem accept_opa (w : Word) (s : State) : (accept w s).opa = s.opa := by simp [accept]
@[simp] theorem accept_opb (w : Word) (s : State) : (accept w s).opb = s.opb := by simp [accept]
@[simp] theorem accept_opm (w : Word) (s : State) : (accept w s).opm = s.opm := by simp [accept]
@[simp] theorem accept_res (w : Word) (s : State) : (accept w s).res = s.res := by simp [accept]
@[simp] theorem accept_aux (w : Word) (s : State) : (accept w s).aux = s.aux := by simp [accept]
@[simp] theorem accept_phase (w : Word) (s : State) : (accept w s).phase = .busy := by simp [accept]
@[simp] theorem accept_lat (w : Word) (s : State) : (accept w s).lat = ⟨w, s.opa, s.opb, s.opm⟩ := by simp [accept]

/-! ### `reply` -/

@[simp] theorem reply_ctrlIe (v : Word) (s : State) : (reply v s).ctrlIe = s.ctrlIe := rfl
@[simp] theorem reply_statusDone (v : Word) (s : State) : (reply v s).statusDone = s.statusDone := rfl
@[simp] theorem reply_statusBool (v : Word) (s : State) : (reply v s).statusBool = s.statusBool := rfl
@[simp] theorem reply_statusOvr (v : Word) (s : State) : (reply v s).statusOvr = s.statusOvr := rfl
@[simp] theorem reply_statusErrcode (v : Word) (s : State) : (reply v s).statusErrcode = s.statusErrcode := rfl
@[simp] theorem reply_cmd (v : Word) (s : State) : (reply v s).cmd = s.cmd := rfl
@[simp] theorem reply_opa (v : Word) (s : State) : (reply v s).opa = s.opa := rfl
@[simp] theorem reply_opb (v : Word) (s : State) : (reply v s).opb = s.opb := rfl
@[simp] theorem reply_opm (v : Word) (s : State) : (reply v s).opm = s.opm := rfl
@[simp] theorem reply_res (v : Word) (s : State) : (reply v s).res = s.res := rfl
@[simp] theorem reply_aux (v : Word) (s : State) : (reply v s).aux = s.aux := rfl
@[simp] theorem reply_phase (v : Word) (s : State) : (reply v s).phase = s.phase := rfl
@[simp] theorem reply_lat (v : Word) (s : State) : (reply v s).lat = s.lat := rfl
@[simp] theorem reply_work (v : Word) (s : State) : (reply v s).work = s.work := rfl
@[simp] theorem reply_env (v : Word) (s : State) : (reply v s).env = { s.env with replies := v :: s.env.replies } := rfl

/-! ### `setBus` -/

@[simp] theorem setBus_ctrlIe (ops : List HostOp) (s : State) : (setBus ops s).ctrlIe = s.ctrlIe := rfl
@[simp] theorem setBus_statusDone (ops : List HostOp) (s : State) : (setBus ops s).statusDone = s.statusDone := rfl
@[simp] theorem setBus_statusBool (ops : List HostOp) (s : State) : (setBus ops s).statusBool = s.statusBool := rfl
@[simp] theorem setBus_statusOvr (ops : List HostOp) (s : State) : (setBus ops s).statusOvr = s.statusOvr := rfl
@[simp] theorem setBus_statusErrcode (ops : List HostOp) (s : State) : (setBus ops s).statusErrcode = s.statusErrcode := rfl
@[simp] theorem setBus_cmd (ops : List HostOp) (s : State) : (setBus ops s).cmd = s.cmd := rfl
@[simp] theorem setBus_opa (ops : List HostOp) (s : State) : (setBus ops s).opa = s.opa := rfl
@[simp] theorem setBus_opb (ops : List HostOp) (s : State) : (setBus ops s).opb = s.opb := rfl
@[simp] theorem setBus_opm (ops : List HostOp) (s : State) : (setBus ops s).opm = s.opm := rfl
@[simp] theorem setBus_res (ops : List HostOp) (s : State) : (setBus ops s).res = s.res := rfl
@[simp] theorem setBus_aux (ops : List HostOp) (s : State) : (setBus ops s).aux = s.aux := rfl
@[simp] theorem setBus_phase (ops : List HostOp) (s : State) : (setBus ops s).phase = s.phase := rfl
@[simp] theorem setBus_lat (ops : List HostOp) (s : State) : (setBus ops s).lat = s.lat := rfl
@[simp] theorem setBus_work (ops : List HostOp) (s : State) : (setBus ops s).work = s.work := rfl
@[simp] theorem setBus_env (ops : List HostOp) (s : State) : (setBus ops s).env = { s.env with bus := ops } := rfl

/-! ### `afterMove` -/

@[simp] theorem afterMove_ctrlIe (s : State) : (afterMove s).ctrlIe = s.ctrlIe := by unfold afterMove; split <;> rfl
@[simp] theorem afterMove_statusDone (s : State) : (afterMove s).statusDone = s.statusDone := by unfold afterMove; split <;> rfl
@[simp] theorem afterMove_statusBool (s : State) : (afterMove s).statusBool = s.statusBool := by unfold afterMove; split <;> rfl
@[simp] theorem afterMove_statusOvr (s : State) : (afterMove s).statusOvr = s.statusOvr := by unfold afterMove; split <;> rfl
@[simp] theorem afterMove_statusErrcode (s : State) : (afterMove s).statusErrcode = s.statusErrcode := by unfold afterMove; split <;> rfl
@[simp] theorem afterMove_cmd (s : State) : (afterMove s).cmd = s.cmd := by unfold afterMove; split <;> rfl
@[simp] theorem afterMove_opa (s : State) : (afterMove s).opa = s.opa := by unfold afterMove; split <;> rfl
@[simp] theorem afterMove_opb (s : State) : (afterMove s).opb = s.opb := by unfold afterMove; split <;> rfl
@[simp] theorem afterMove_opm (s : State) : (afterMove s).opm = s.opm := by unfold afterMove; split <;> rfl
@[simp] theorem afterMove_res (s : State) : (afterMove s).res = s.res := by unfold afterMove; split <;> rfl
@[simp] theorem afterMove_aux (s : State) : (afterMove s).aux = s.aux := by unfold afterMove; split <;> rfl
@[simp] theorem afterMove_phase (s : State) : (afterMove s).phase = s.phase := by unfold afterMove; split <;> rfl
@[simp] theorem afterMove_lat (s : State) : (afterMove s).lat = s.lat := by unfold afterMove; split <;> rfl
@[simp] theorem afterMove_work (s : State) : (afterMove s).work = s.work := by unfold afterMove; split <;> rfl

@[simp] theorem afterMove_bus (s : State) : (afterMove s).env.bus = s.env.bus := by
  unfold afterMove; split <;> rfl

@[simp] theorem afterMove_replies (s : State) : (afterMove s).env.replies = s.env.replies := by
  unfold afterMove; split <;> rfl

@[simp] theorem afterMove_latencies (s : State) : (afterMove s).env.latencies = s.env.latencies := by
  unfold afterMove; split <;> rfl

/-- The agent is taken from the schedule when one is given. -/
theorem afterMove_cons (s : State) (m : Move) (ms : List Move) (h : s.env.sched = m :: ms) :
    afterMove s = { s with env := { s.env with sched := ms } } := by
  unfold afterMove; rw [h]

theorem currentMove_cons (s : State) (m : Move) (ms : List Move) (h : s.env.sched = m :: ms) :
    currentMove s = m := by
  unfold currentMove; rw [h]

end Sys2Proof.Machine
end

