-- ==== Sys2Proof/Laws/Ops.lean ====
section
/-! SUPPORT. What each shared operation can do, said once: accept, the register window, completion, and the
inversion of a step. -/

namespace Sys2Proof.Machine

/-! ### Completion -/

/-- A completion changes the result registers and flags, DONE and the phase, and nothing else. -/
theorem complete_eq_completedWith (o : CmdOutcome) (s : State) :
    complete o s = completedWith s (complete o s).res (complete o s).aux (complete o s).statusBool
      (complete o s).statusErrcode := by
  cases o <;> rfl

/-- After a completion the result registers show its outcome. -/
theorem shows_complete (o : CmdOutcome) (s : State) : Shows o (complete o s) := by
  cases o <;> simp [Shows, complete]

/-- What the result registers show depends on these four fields only. -/
theorem shows_congr (o : CmdOutcome) (s t : State) (hr : t.res = s.res) (ha : t.aux = s.aux)
    (hb : t.statusBool = s.statusBool) (he : t.statusErrcode = s.statusErrcode) :
    Shows o t ↔ Shows o s := by
  cases o <;> simp [Shows, hr, ha, hb, he]

/-- Every command's arm is its completion with its outcome. -/
theorem exec_eq_complete (i : Instr) (s : State) :
    exec i s = .next (complete (commandOutcome i s.lat) s) := by
  cases i <;> rfl

/-- The completing engine step is the completion with the outcome of the latched words. -/
theorem finishCommand_eq (s : State) : finishCommand s = .next (complete (latchOutcome s.lat) s) := by
  unfold finishCommand latchOutcome
  split <;> rename_i h
  · rw [exec_eq_complete]; simp [h]
  · simp [h, execIllegal]

/-! ### Accept -/

/-- At least one engine step remains after accept. -/
theorem one_le_startWork_work (s : State) : 1 ≤ (startWork s).work := by
  unfold startWork; split <;> simp

/-- Starting the work changes `work` and draws one latency; the rest of the surroundings stays. -/
theorem startWork_cases (s : State) :
    (∃ k ks, s.env.latencies = k :: ks ∧
      startWork s = { s with work := k + 1, env := { s.env with latencies := ks } }) ∨
    (s.env.latencies = [] ∧ ∃ k,
      startWork s = { s with work := k + 1, env := { s.env with choices := s.env.choices + 1 } }) := by
  unfold startWork
  split <;> rename_i h
  · exact .inl ⟨_, _, h, rfl⟩
  · exact .inr ⟨h, _, rfl⟩

/-! ### The register window -/

/-- The values of `regAt` at the nine offsets of R21. -/
theorem regAt_regOffset (r : Reg) : regAt (regOffset r) = some r := by
  cases r <;> decide

/-- The cases of `busWrite`: nothing, an operand, STATUS, CTRL, a reset, an accept or an overrun. -/
theorem busWrite_cases (off : Offset) (v : Word) (s : State) :
    (busWrite off v s = s ∧
      (regAt off = none ∨ regAt off = some .id ∨ regAt off = some .res ∨ regAt off = some .aux)) ∨
    (regAt off = some .opa ∧ busWrite off v s = { s with opa := v }) ∨
    (regAt off = some .opb ∧ busWrite off v s = { s with opb := v }) ∨
    (regAt off = some .opm ∧ busWrite off v s = { s with opm := v }) ∨
    (regAt off = some .status ∧ busWrite off v s = writeStatus v s) ∨
    (regAt off = some .ctrl ∧ v.getLsbD 1 = false ∧ busWrite off v s = { s with ctrlIe := v.getLsbD 0 }) ∨
    (regAt off = some .ctrl ∧ v.getLsbD 1 = true ∧ busWrite off v s = engineReset s) ∨
    (regAt off = some .cmd ∧ s.phase = .idle ∧ busWrite off v s = accept v s) ∨
    (regAt off = some .cmd ∧ s.phase = .busy ∧ busWrite off v s = { s with statusOvr := true }) := by
  unfold busWrite
  rcases hr : regAt off with _ | r
  · simp
  · cases r <;> simp [writeCtrl, writeCmd]
    · cases v[1] <;> simp
    · cases s.phase <;> simp

/-- Bit 0 of a STATUS read is the phase. -/
theorem busRead_status_busy (s : State) : (busRead 0x08#6 s).getLsbD 0 = decide (s.phase = .busy) := by
  have h : busRead 0x08#6 s = statusWord s := rfl
  rw [h]
  unfold statusWord busyBit
  simp only [BitVec.getLsbD_append]
  cases s.phase <;> rfl

/-- Bit 1 of a STATUS read is DONE. -/
theorem busRead_status_done (s : State) : (busRead 0x08#6 s).getLsbD 1 = s.statusDone := by
  have h : busRead 0x08#6 s = statusWord s := rfl
  rw [h]
  unfold statusWord
  simp only [BitVec.getLsbD_append]
  cases s.statusDone <;> rfl

/-- At an aligned offset other than ID's, every register of a reset engine reads 0. -/
theorem busRead_engineReset (off : Offset) (s : State) (ha : Offset.aligned off = true) (h0 : off ≠ 0x00#6) :
    busRead off (engineReset s) = 0 := by
  have hid : regAt off ≠ some .id := by revert off; decide
  unfold busRead
  rcases hr : regAt off with _ | r
  · rfl
  · cases r
    case id => exact absurd hr hid
    case ctrl => exact (by decide : (0#31 ++ BitVec.ofBool false : Word) = 0)
    case status => exact (by decide : statusWord State.reset = 0)
    all_goals rfl

/-! ### Steps -/

/-- A delivered transaction is to an aligned offset. -/
theorem deliverPort_ok {a b : BusAccess} (h : deliverPort a = .ok b) : b = a ∧ a.wellFormed = true := by
  unfold deliverPort at h
  split at h
  · exact ⟨(Except.ok.inj h).symm, ‹_›⟩
  · cases h

/-- Everything a host step can do. -/
theorem hostStep_cases {s t : State} (h : hostStep s = .next t) :
    (s.env.bus = [] ∧ t = s) ∨
    ∃ op rest a, s.env.bus = op :: rest ∧ deliver op = .ok a ∧
      t = setBus (busAfter op rest s) (busAccess a s) := by
  unfold hostStep at h
  split at h
  · exact .inl ⟨‹_›, (Host.Outcome.next.inj h).symm⟩
  · rename_i op rest hb
    split at h
    · cases h
    · rename_i a hd
      exact .inr ⟨op, rest, a, hb, hd, (Host.Outcome.next.inj h).symm⟩

/-- Everything an engine step can do. -/
theorem engineStep_cases {s t : State} (h : engineStep s = .next t) :
    (s.phase = .idle ∧ t = s) ∨
    (s.phase = .busy ∧ 2 ≤ s.work ∧ t = { s with work := s.work - 1 }) ∨
    (s.phase = .busy ∧ s.work ≤ 1 ∧ t = complete (latchOutcome s.lat) s) := by
  unfold engineStep at h
  split at h
  · exact .inl ⟨‹_›, (Host.Outcome.next.inj h).symm⟩
  · split at h
    · rw [finishCommand_eq] at h
      exact .inr (.inr ⟨‹_›, ‹_›, (Host.Outcome.next.inj h).symm⟩)
    · exact .inr (.inl ⟨‹_›, by omega, (Host.Outcome.next.inj h).symm⟩)

/-- Everything a step can do. -/
theorem step_cases {s t : State} (h : step s = .next t) :
    (currentMove s = .rst ∧ t = engineReset (afterMove s)) ∨
    (currentMove s = .engine ∧ s.phase = .idle ∧ t = afterMove s) ∨
    (currentMove s = .engine ∧ s.phase = .busy ∧ 2 ≤ s.work ∧
      t = { afterMove s with work := s.work - 1 }) ∨
    (StepCompletes s ∧ t = complete (latchOutcome s.lat) (afterMove s)) ∨
    (currentMove s = .host ∧ s.env.bus = [] ∧ t = afterMove s) ∨
    (∃ op rest a, currentMove s = .host ∧ s.env.bus = op :: rest ∧ deliver op = .ok a ∧
      stepAccess s = some a ∧
      t = setBus (busAfter op rest (afterMove s)) (busAccess a (afterMove s))) := by
  unfold step moveStep at h
  split at h
  · rename_i hm
    rcases hostStep_cases h with ⟨hb, rfl⟩ | ⟨op, rest, a, hb, hd, rfl⟩
    · exact .inr (.inr (.inr (.inr (.inl ⟨hm, by simpa using hb, rfl⟩))))
    · simp only [afterMove_bus] at hb
      refine .inr (.inr (.inr (.inr (.inr ⟨op, rest, a, hm, hb, hd, ?_, rfl⟩))))
      simp [stepAccess, hm, hb, hd]
  · rename_i hm
    rcases engineStep_cases h with ⟨hp, rfl⟩ | ⟨hp, hw, rfl⟩ | ⟨hp, hw, rfl⟩ <;>
      simp only [afterMove_phase] at hp
    · exact .inr (.inl ⟨hm, hp, rfl⟩)
    · simp only [afterMove_work] at hw
      exact .inr (.inr (.inl ⟨hm, hp, hw, by simp⟩))
    · simp only [afterMove_work] at hw
      exact .inr (.inr (.inr (.inl ⟨⟨hm, hp, hw⟩, by simp⟩)))
  · rename_i hm
    exact .inl ⟨hm, (Host.Outcome.next.inj h).symm⟩

/-! ### The surroundings a host step leaves alone -/

/-- The surroundings with the operations and moves still to come replaced. -/
def withQueues (ops : List HostOp) (ms : List Move) (s : State) : State :=
  { s with env := { s.env with bus := ops, sched := ms } }

/-- A transaction neither reads nor writes the operations and moves still to come. -/
theorem busAccess_withQueues (a : BusAccess) (ops : List HostOp) (ms : List Move) (s : State) :
    busAccess a (withQueues ops ms s) = withQueues ops ms (busAccess a s) := by
  cases a with
  | read off =>
    simp only [busAccess, busRead]
    rcases regAt off with _ | r
    · rfl
    · cases r <;> rfl
  | write off v =>
    simp only [busAccess, busWrite]
    rcases regAt off with _ | r
    · rfl
    · cases r
      case ctrl => simp only [writeCtrl]; split <;> rfl
      case cmd =>
        rcases s with ⟨_, _, _, _, _, _, _, _, _, _, _, p, _, _, ⟨_, _, l, _, _⟩⟩
        cases p
        · cases l <;> rfl
        · rfl
      all_goals rfl

/-- A host step with a schedule: the next operation is refused, or its transaction is performed. -/
theorem step_host {s : State} {op : HostOp} {ops : List HostOp} {ms : List Move}
    (hs : s.env.sched = .host :: ms) (hb : s.env.bus = op :: ops) :
    step s =
      match deliver op with
      | .error r => .refused r
      | .ok a => .next (withQueues (busAfter op ops s) ms (busAccess a s)) := by
  unfold step
  rw [currentMove_cons _ _ _ hs, afterMove_cons _ _ _ hs]
  simp only [moveStep, hostStep, hb]
  cases deliver op with
  | error r => rfl
  | ok a =>
    have h : ({ s with env := { s.env with sched := ms } } : State) = withQueues s.env.bus ms s := rfl
    simp only [← hb]
    have ha : busAfter op ops { s with env := { s.env with sched := ms } } = busAfter op ops s := by
      cases op <;> rfl
    rw [ha, h, busAccess_withQueues]
    rfl

/-- A step with a schedule is the step of its first agent. -/
theorem step_sched {s : State} {m : Move} {ms : List Move} (hs : s.env.sched = m :: ms) :
    step s = moveStep m { s with env := { s.env with sched := ms } } := by
  unfold step
  rw [currentMove_cons _ _ _ hs, afterMove_cons _ _ _ hs]

end Sys2Proof.Machine
end

