-- ==== Sys2Proof/Laws/Loops.lean ====
section
/-! SUPPORT. What each loop of the commands answers when its fuel is enough: the loops of 41_primality.md
R131, 42_modular_arithmetic.md R142 and R151, and 43_domain_parameters.md R170. -/

namespace Sys2Proof.Machine

/-- The square-and-multiply loop with enough fuel: no iteration leaves `res` as it is, one or more leave
the reduced product of `res` and a power of `base`. -/
theorem modPowLoop_eq (m fuel res base e : Nat) (h : e ≤ fuel) :
    modPowLoop m fuel res base e = if e = 0 then res else res * base ^ e % m := by
  induction fuel generalizing res base e with
  | zero =>
    obtain rfl : e = 0 := by omega
    rfl
  | succ fuel ih =>
    unfold modPowLoop
    by_cases he : e = 0
    · simp [he]
    · simp only [he, if_false]
      rw [ih _ _ _ (by omega)]
      have hb : base ^ e = base ^ (e % 2) * (base * base) ^ (e / 2) := by
        rw [← pow_two, ← pow_mul, ← pow_add, Nat.mod_add_div]
      rcases Nat.mod_two_eq_zero_or_one e with h2 | h2
      · have h3 : e / 2 ≠ 0 := by omega
        simp only [h2, h3, if_false, Nat.zero_ne_one]
        rw [hb, h2, pow_zero, one_mul, Nat.mul_mod, ← Nat.pow_mod, ← Nat.mul_mod]
      · simp only [h2, if_true]
        rw [hb, h2, pow_one]
        by_cases h3 : e / 2 = 0
        · simp [h3]
        · simp only [h3, if_false]
          rw [Nat.mul_mod, Nat.mod_mod, ← Nat.pow_mod, ← Nat.mul_mod, mul_assoc]

/-- The candidates from `d` by twos: the loop answers the first that divides `n`, below the square root. -/
theorem firstOddDivisor_some {n fuel d k : Nat} (h : firstOddDivisor n fuel d = some k) :
    d ≤ k ∧ k % 2 = d % 2 ∧ k * k ≤ n ∧ n % k = 0 ∧
      ∀ j, d ≤ j → j < k → j % 2 = d % 2 → n % j ≠ 0 := by
  induction fuel generalizing d with
  | zero => cases h
  | succ fuel ih =>
    unfold firstOddDivisor at h
    split at h
    · split at h
      · obtain rfl := Option.some.inj h
        exact ⟨le_refl _, rfl, ‹_›, ‹_›, fun j h1 h2 => absurd h1 (by omega)⟩
      · rename_i hdd hnd
        obtain ⟨h1, h2, h3, h4, h5⟩ := ih h
        refine ⟨by omega, by omega, h3, h4, fun j hj hk hp => ?_⟩
        by_cases hjd : j = d
        · exact hjd ▸ hnd
        · exact h5 j (by omega) hk (by omega)
    · cases h

/-- With enough fuel the loop answers nothing only when no candidate below the square root divides `n`. -/
theorem firstOddDivisor_none {n fuel d : Nat} (hf : n < fuel + d) (h : firstOddDivisor n fuel d = none) :
    ∀ j, d ≤ j → j % 2 = d % 2 → j * j ≤ n → n % j ≠ 0 := by
  induction fuel generalizing d with
  | zero =>
    intro j hj _ hjj
    have : j ≤ j * j := Nat.le_mul_self j
    omega
  | succ fuel ih =>
    unfold firstOddDivisor at h
    split at h
    · split at h
      · cases h
      · rename_i hdd hnd
        intro j hj hp hjj
        by_cases hjd : j = d
        · exact hjd ▸ hnd
        · exact ih (by omega) h j (by omega) (by omega) hjj
    · rename_i hdd
      intro j hj _ hjj
      exact absurd (le_trans (Nat.mul_le_mul hj hj) hjj) hdd

/-- The scan answers the first candidate from `i` that passes the filter. -/
theorem genScan_some {q fuel i g : Nat} {filter : Nat → Bool} (h : genScan q filter fuel i = some g) :
    i ≤ g ∧ g ≤ q - 1 ∧ filter g = true ∧ ∀ j, i ≤ j → j < g → filter j = false := by
  induction fuel generalizing i with
  | zero => cases h
  | succ fuel ih =>
    unfold genScan at h
    split at h
    · split at h
      · obtain rfl := Option.some.inj h
        exact ⟨le_refl _, ‹_›, ‹_›, fun j h1 h2 => absurd h1 (by omega)⟩
      · rename_i hi hf
        obtain ⟨h1, h2, h3, h4⟩ := ih h
        refine ⟨by omega, h2, h3, fun j hj hg => ?_⟩
        by_cases hji : j = i
        · simpa [hji] using hf
        · exact h4 j (by omega) hg
    · cases h

/-- With enough fuel the scan answers nothing only when no candidate passes. -/
theorem genScan_none {q fuel i : Nat} {filter : Nat → Bool} (hf : q ≤ fuel + i)
    (h : genScan q filter fuel i = none) : ∀ j, i ≤ j → j ≤ q - 1 → 1 ≤ q → filter j = false := by
  induction fuel generalizing i with
  | zero => intro j _ _ _; omega
  | succ fuel ih =>
    unfold genScan at h
    split at h
    · split at h
      · cases h
      · rename_i hi hn
        intro j hj hq h1
        by_cases hji : j = i
        · simpa [hji] using hn
        · exact ih (by omega) h j (by omega) hq h1
    · intro j hj hq _; omega

/-- The values of the quotient recurrence (R151) for operands `a0` and `m0`: remainders non-negative, both
coefficients congruences, and the signs of the coefficients opposite. -/
structure EuclidValues (a0 m0 x y u v : Int) : Prop where
  x_nonneg : 0 ≤ x
  y_nonneg : 0 ≤ y
  cong_x : m0 ∣ a0 * u - x
  cong_y : m0 ∣ a0 * v - y
  gcd_eq : Int.gcd x y = Int.gcd a0 m0
  bound : |u| * y + |v| * x = m0
  signs : (0 ≤ u ∧ v ≤ 0) ∨ (u ≤ 0 ∧ 0 ≤ v)

/-- The recurrence starts with such values. -/
theorem euclidValues_start {a m : Int} (ha : 0 ≤ a) (hm : 0 < m) : EuclidValues a m a m 1 0 where
  x_nonneg := ha
  y_nonneg := hm.le
  cong_x := by simp
  cong_y := by simp
  gcd_eq := rfl
  bound := by simp
  signs := .inl ⟨by decide, le_refl _⟩

/-- One iteration keeps them. -/
theorem euclidValues_next {a0 m0 x y u v : Int} (h : EuclidValues a0 m0 x y u v) (hy : y ≠ 0) :
    EuclidValues a0 m0 y (x - x / y * y) v (u - x / y * v) := by
  have hx := h.x_nonneg
  have hpos : 0 < y := lt_of_le_of_ne h.y_nonneg (Ne.symm hy)
  have ht : 0 ≤ x / y := Int.ediv_nonneg hx hpos.le
  have hr : x - x / y * y = x % y := by
    have := Int.emod_def x y
    rw [this, mul_comm]
  refine ⟨hpos.le, hr ▸ Int.emod_nonneg _ hy, h.cong_y, ?_, ?_, ?_, ?_⟩
  · have h1 := dvd_sub h.cong_x (h.cong_y.mul_left (x / y))
    have h2 : a0 * u - x - x / y * (a0 * v - y) = a0 * (u - x / y * v) - (x - x / y * y) := by ring
    rwa [h2] at h1
  · rw [Int.gcd_sub_mul_right_right, Int.gcd_comm]
    exact h.gcd_eq
  · have hb := h.bound
    rcases h.signs with ⟨hu, hv⟩ | ⟨hu, hv⟩
    · have h3 : 0 ≤ u - x / y * v := by nlinarith
      rw [abs_of_nonpos hv, abs_of_nonneg h3]
      rw [abs_of_nonneg hu, abs_of_nonpos hv] at hb
      linear_combination hb
    · have h3 : u - x / y * v ≤ 0 := by nlinarith
      rw [abs_of_nonneg hv, abs_of_nonpos h3]
      rw [abs_of_nonpos hu, abs_of_nonneg hv] at hb
      linear_combination hb
  · rcases h.signs with ⟨hu, hv⟩ | ⟨hu, hv⟩
    · exact .inr ⟨hv, by nlinarith⟩
    · exact .inl ⟨hv, by nlinarith⟩

/-- With enough fuel the loop ends with such values and `y = 0`. -/
theorem extEuclidLoop_values {a0 m0 : Int} (fuel : Nat) (x y u v : Int)
    (h : EuclidValues a0 m0 x y u v) (hf : y.toNat ≤ fuel) :
    ∃ v', EuclidValues a0 m0 (extEuclidLoop fuel x y u v).1 0 (extEuclidLoop fuel x y u v).2 v' := by
  induction fuel generalizing x y u v with
  | zero =>
    have hy := h.y_nonneg
    obtain rfl : y = 0 := by omega
    exact ⟨v, h⟩
  | succ fuel ih =>
    unfold extEuclidLoop
    split
    · rename_i hy; subst hy; exact ⟨v, h⟩
    · rename_i hy
      have hpos : 0 < y := lt_of_le_of_ne h.y_nonneg (Ne.symm hy)
      have hlt : x - x / y * y < y := by
        have h1 := Int.emod_lt_of_pos x hpos
        rwa [Int.emod_def, mul_comm] at h1
      exact ih _ _ _ _ (euclidValues_next h hy) (by omega)

end Sys2Proof.Machine
end

