-- ==== Sys2Proof/Laws/PerInstr.lean ====
section
/-! SUPPORT. One lemma per command of the family RoundTrip: the word the encoder gives has zero reserved bits,
and its fields OP and FN select the command (30_encoding.md R82, R84). -/

namespace Sys2Proof

/-- A well-formed command is selected by the fields of its own word. -/
def Laws.RoundTrip.Statement (i : Instr) : Prop :=
  i.wellFormed = true →
    cmdRsvd (encode i) = 0#24 ∧ decodeFields (cmdOp (encode i)).toNat (cmdFn (encode i)).toNat = .ok i

theorem Laws.RoundTrip.modpow : Laws.RoundTrip.Statement .modpow := fun _ => ⟨rfl, rfl⟩
theorem Laws.RoundTrip.modinv : Laws.RoundTrip.Statement .modinv := fun _ => ⟨rfl, rfl⟩
theorem Laws.RoundTrip.modmul : Laws.RoundTrip.Statement .modmul := fun _ => ⟨rfl, rfl⟩
theorem Laws.RoundTrip.isprime : Laws.RoundTrip.Statement .isprime := fun _ => ⟨rfl, rfl⟩
theorem Laws.RoundTrip.safeprimeQ : Laws.RoundTrip.Statement .safeprimeQ := fun _ => ⟨rfl, rfl⟩
theorem Laws.RoundTrip.safeprimeP : Laws.RoundTrip.Statement .safeprimeP := fun _ => ⟨rfl, rfl⟩
theorem Laws.RoundTrip.genfindSub : Laws.RoundTrip.Statement .genfindSub := fun _ => ⟨rfl, rfl⟩
theorem Laws.RoundTrip.genfindRef : Laws.RoundTrip.Statement .genfindRef := fun _ => ⟨rfl, rfl⟩

end Sys2Proof
end

