-- ==== Sys2Proof/Tests/Slice0.lean ====
section
/-! SUPPORT. The model's own tests. Expected results are the vectors of 95_test_vectors.md (their ids stand in the
names and comments) and the encodings of 30_encoding.md R82; the last part shows that the hypotheses of every statement
can be met. -/

open Sys2Proof Sys2Proof.Machine

namespace Sys2Proof.Tests

/-! ### Well-formedness: one ill-formed term for each check (an `Instr` has no operand and is always well formed) -/

theorem test_wf_offset_unaligned : Offset.aligned 0x0E#6 = false := by decide
theorem test_wf_offset_aligned : Offset.aligned 0x3C#6 = true := by decide
theorem test_wf_write_unaligned : (BusAccess.write 0x01#6 5).wellFormed = false := by decide
theorem test_wf_read_unaligned : (BusAccess.read 0x02#6).wellFormed = false := by decide
theorem test_wf_below_window : inWindow 0x1000 0x0FFF = false := by decide
theorem test_wf_above_window : inWindow 0x1000 0x1040 = false := by decide
theorem test_wf_memWrite_short : (HostOp.memWrite 0x1000 [1, 2, 3]).wellFormed 0x1000 = false := by decide
theorem test_wf_memWrite_unaligned : (HostOp.memWrite 0x1002 [1, 2, 3, 4]).wellFormed 0x1000 = false := by decide
theorem test_wf_memWrite_outside : (HostOp.memWrite 0x1040 [1, 2, 3, 4]).wellFormed 0x1000 = false := by decide
theorem test_wf_memRead_narrow : (HostOp.memRead 0x1000 2).wellFormed 0x1000 = false := by decide
theorem test_wf_memRead_unaligned : (HostOp.memRead 0x1003 4).wellFormed 0x1000 = false := by decide
theorem test_wf_memRead_outside : (HostOp.memRead 0x0FFC 4).wellFormed 0x1000 = false := by decide
theorem test_wf_memRead_last_word : (HostOp.memRead 0x103C 4).wellFormed 0x1000 = true := by decide

/-! ### Decoding: words written out from the fields RSVD, FN, OP of R82 -/

theorem test_decode_modpow : decode (0#24 ++ 0b0000#4 ++ 0b0001#4) = some .modpow := by decide
theorem test_decode_modinv : decode (0#24 ++ 0b0000#4 ++ 0b0010#4) = some .modinv := by decide
theorem test_decode_modmul : decode (0#24 ++ 0b0000#4 ++ 0b0011#4) = some .modmul := by decide
theorem test_decode_isprime : decode (0#24 ++ 0b0000#4 ++ 0b0100#4) = some .isprime := by decide
theorem test_decode_safeprimeQ : decode (0#24 ++ 0b0000#4 ++ 0b0101#4) = some .safeprimeQ := by decide
theorem test_decode_safeprimeP : decode (0#24 ++ 0b0001#4 ++ 0b0101#4) = some .safeprimeP := by decide
theorem test_decode_genfindSub : decode (0#24 ++ 0b0000#4 ++ 0b0110#4) = some .genfindSub := by decide
theorem test_decode_genfindRef : decode (0#24 ++ 0b0001#4 ++ 0b0110#4) = some .genfindRef := by decide

/-- DC1 to DC9: the illegal words, each rejected by the clause of R85 it breaks. -/
theorem test_decode_illegal :
    decodeWord 0x00000000#32 = .error .reservedOp ∧ decodeWord 0x00000007#32 = .error .reservedOp ∧
    decodeWord 0x0000000F#32 = .error .reservedOp ∧ decodeWord 0x00000011#32 = .error .reservedFn ∧
    decodeWord 0x00000014#32 = .error .reservedFn ∧ decodeWord 0x00000025#32 = .error .reservedFn ∧
    decodeWord 0x00000026#32 = .error .reservedFn ∧ decodeWord 0x00000101#32 = .error .reservedBits ∧
    decodeWord 0xFFFFFFFF#32 = .error .reservedBits := ⟨rfl, rfl, rfl, rfl, rfl, rfl, rfl, rfl, rfl⟩

theorem test_decode_bytes :
    decodeBytes [0x16#8, 0x00#8, 0x00#8, 0x00#8, 0xAA#8] = .ok (.genfindRef, [0xAA#8]) := rfl
theorem test_decode_bytes_truncated : decodeBytes [0x01#8, 0x00#8, 0x00#8] = .error .truncated := rfl
theorem test_decode_table_word : decodeTableWord 32 0x15 = some .safeprimeP := by decide
theorem test_encode_bytes : encodeBytes .safeprimeP = [0x15#8, 0x00#8, 0x00#8, 0x00#8] := by decide
theorem test_lanes : bytesOfWord 0x454C4707#32 = [0x07#8, 0x47#8, 0x4C#8, 0x45#8] := by decide

/-- Program P1, line 7: `CALL MODINV A=9 M=11` writes no OPB. -/
theorem test_call_modinv_P1 :
    opsCall .modinv (some 9) none (some 11) =
      [.access (.write 0x10#6 9), .access (.write 0x18#6 11), .access (.write 0x0C#6 0x00000002),
        .wait, .access (.read 0x1C#6), .access (.read 0x20#6)] := by decide

/-! ### Commands: one completing step on given operands gives RES, AUX and the STATUS word -/

/-- RES, AUX and STATUS after the completing step of the command word `w` on `(a, b, m)` from reset. -/
def runCommand (w : Nat) (a b m : Word) : Option (Word × Word × Word) :=
  match step (State.withFetchWord { State.reset with opa := a, opb := b, opm := m } 32 w) with
  | .next t => some (t.res, t.aux, busRead 0x08#6 t)
  | .fault _ => none
  | .refused _ => none

/-- W2, vector MP1. -/
theorem test_modpow_MP1 : runCommand 0x01 2 10 1000 = some (24, 0, 0x00000002) := by rfl
/-- Vector MP5: n = 0 and m = 1 give 1. -/
theorem test_modpow_MP5 : runCommand 0x01 7 0 1 = some (1, 0, 0x00000002) := by rfl
/-- Vector MI7. -/
theorem test_modinv_MI7 : runCommand 0x02 12345 0 2147483647 = some (0x5479059E, 1, 0x00000002) := by rfl
/-- Vector MI13: gcd(6, 9) = 3. -/
theorem test_modinv_MI13 : runCommand 0x02 6 0 9 = some (0, 3, 0x00000306) := by rfl
/-- Vector MM5: the product is formed exactly. -/
theorem test_modmul_MM5 : runCommand 0x03 2147483647 2147483647 2147483646 = some (1, 0, 0x00000002) := by rfl
/-- Vector MM8: a < 0. -/
theorem test_modmul_MM8 : runCommand 0x03 (-3) 4 7 = some (0, 0, 0x00000206) := by rfl
/-- Vector PR10: the square of a prime. -/
theorem test_isprime_PR10 : runCommand 0x04 25 0 0 = some (0, 5, 0x00000002) := by rfl
/-- Vector PR11. -/
theorem test_isprime_PR11 : runCommand 0x04 97 0 0 = some (1, 0, 0x0000000A) := by rfl
/-- Vector SQ5: p = 1 is not prime. -/
theorem test_safeprimeQ_SQ5 : runCommand 0x05 3 0 0 = some (0, 1, 0x00000002) := by rfl
/-- Vector SQ11. -/
theorem test_safeprimeQ_SQ11 : runCommand 0x05 47 0 0 = some (1, 23, 0x0000000A) := by rfl
/-- Vector SP7: q = 15 is not prime. -/
theorem test_safeprimeP_SP7 : runCommand 0x15 7 0 0 = some (0, 15, 0x00000002) := by rfl
/-- Vector SP11: p = 2^30 is above the headroom bound. -/
theorem test_safeprimeP_SP11 : runCommand 0x15 1073741824 0 0 = some (0, 0, 0x00000206) := by rfl
/-- Vector GF4, SUB: no element of order 2 passes. -/
theorem test_genfindSub_GF4 : runCommand 0x06 5 0 0 = some (0, 2, 0x00000406) := by rfl
/-- Vector GF6, SUB. -/
theorem test_genfindSub_GF6 : runCommand 0x06 11 0 0 = some (3, 5, 0x0000000A) := by rfl
/-- Vector GF6, REF: 2, of order 10. -/
theorem test_genfindRef_GF6 : runCommand 0x16 11 0 0 = some (2, 5, 0x0000000A) := by rfl
/-- Vector GF7, REF: q = 15 is not checked for primality. -/
theorem test_genfindRef_GF7 : runCommand 0x16 15 0 0 = some (3, 7, 0x0000000A) := by rfl
/-- Vector DC4: the illegal word is reported before the operand checks (m = 0). -/
theorem test_illegal_DC4 : runCommand 0x11 0 0 0 = some (0, 0, 0x00000106) := by rfl

/-! ### Host accesses: one step -/

/-- The machine running ISPRIME 97 with interrupts enabled, `k` engine steps before its end. -/
def running (k : Nat) (ops : List HostOp) (ms : List Move) : State :=
  { State.reset with
    ctrlIe := true
    cmd := 4
    opa := 97
    lat := { cmd := 4, opa := 97, opb := 0, opm := 0 }
    phase := .busy
    work := k
    env := { Env.empty with bus := ops, sched := ms } }

/-- The machine after MODINV of (6, 9) has failed with NonInvertibleInput, interrupts enabled, an overrun seen. -/
def failed (ops : List HostOp) (ms : List Move) : State :=
  { State.reset with
    ctrlIe := true
    statusDone := true
    statusOvr := true
    statusErrcode := some .nonInvertibleInput
    cmd := 2
    opa := 6
    opm := 9
    aux := 3
    lat := { cmd := 2, opa := 6, opb := 0, opm := 9 }
    env := { Env.empty with bus := ops, sched := ms } }

/-- The register at `off` and `irq` after one step, and the words read so far. -/
def observe (off : Offset) (s : State) : Option (Word × Bool × List Word) :=
  match step s with
  | .next t => some (busRead off t, irq t, t.env.replies)
  | .fault _ => none
  | .refused _ => none

/-- RA1: the first read after reset. -/
theorem test_read_id :
    observe 0x00#6 { State.reset with env := { Env.empty with sched := [.host], bus := [opRd .id] } } =
      some (0x454C4707, false, [0x454C4707]) := rfl
/-- RA4. -/
theorem test_write_ctrl_RA4 :
    observe 0x04#6 { State.reset with env := { Env.empty with sched := [.host], bus := [opWr .ctrl 0xFFFFFFFD] } } =
      some (1, false, []) := rfl
/-- RA5: bit 1 resets and bit 0 is ignored. -/
theorem test_write_ctrl_RA5 : observe 0x04#6 (failed [opWr .ctrl 3] [.host]) = some (0, false, []) := rfl
/-- RA9. -/
theorem test_write_opa_RA9 :
    observe 0x10#6 { State.reset with env := { Env.empty with sched := [.host], bus := [opWr .opa 0xDEADBEEF] } } =
      some (0xDEADBEEF, false, []) := rfl
/-- LC2 and LC3: the completion sets DONE and BOOL, and raises `irq` when IE = 1. -/
theorem test_complete_LC2 : observe 0x08#6 (running 1 [] [.engine]) = some (0x0000000A, true, []) := rfl
/-- LC6, with BOOL = 0: the overrun sets OVR. -/
theorem test_overrun_LC6 : observe 0x08#6 (running 2 [opCmd .modpow] [.host]) = some (0x00000011, false, []) := rfl
/-- LC6: the dropped word is not stored. -/
theorem test_overrun_keeps_cmd : observe 0x0C#6 (running 2 [opCmd .modpow] [.host]) = some (4, false, []) := rfl
/-- LC8: OVR is cleared and DONE is left. -/
theorem test_clear_ovr_LC8 : observe 0x08#6 (failed [opWr .status 0x10] [.host]) = some (0x00000306, true, []) := rfl
/-- The acknowledge keeps ERRCODE and drops `irq` (R103). -/
theorem test_ack : observe 0x08#6 (failed [opAck] [.host]) = some (0x00000314, false, []) := rfl
/-- LC10: the accept clears ERRCODE and DONE. -/
theorem test_accept_LC10 :
    observe 0x08#6 { failed [opCmd .isprime] [.host] with
      env := { Env.empty with bus := [opCmd .isprime], sched := [.host], latencies := [2] } } =
      some (0x00000011, false, []) := rfl
/-- LC13: a soft reset while busy. -/
theorem test_reset_LC13 : observe 0x10#6 (running 2 [opSrst] [.host]) = some (0, false, []) := rfl
/-- An unaligned port access takes no step (R63). -/
theorem test_refuse_unaligned : step (running 2 [.access (.write 0x0E#6 1)] [.host]) = .refused .unalignedAccess := rfl

/-! ### Witnesses: states and operands that meet the hypotheses of each statement -/

theorem running_inv (k : Nat) (ops : List HostOp) (ms : List Move) (h : 1 ≤ k) : (running k ops ms).Inv :=
  ⟨fun _ => ⟨rfl, rfl, rfl, h⟩, fun hd => hd.elim (fun e => (by cases e)) (fun e => absurd rfl e)⟩

/-- MI13 as an outcome: gcd(6, 9) = 3. -/
theorem failed_outcome :
    latchOutcome { cmd := 2, opa := 6, opb := 0, opm := 9 } = .err .nonInvertibleInput 3 := by decide

theorem failed_inv (ops : List HostOp) (ms : List Move) : (failed ops ms).Inv := by
  refine ⟨fun e => (by cases e), fun _ => ⟨rfl, rfl, ?_⟩⟩
  have h : latchOutcome (failed ops ms).lat = .err .nonInvertibleInput 3 := failed_outcome
  rw [h]
  exact ⟨rfl, rfl, rfl, rfl⟩

theorem resets_rst : StepResets (running 2 [] [.rst]) := .inl rfl
theorem resets_soft : StepResets (running 2 [opSrst] [.host]) := .inr ⟨2, ⟨0x04#6, rfl, rfl⟩, rfl⟩

theorem witness_HardwareReset : (running 2 [] [.rst]).env.sched = .rst :: [] := rfl
theorem witness_SoftReset : (3#32).getLsbD 1 = true ∧ (2#32).getLsbD 1 = true := by decide
theorem witness_ResetAbandons_hardware :
    (running 2 [] [.rst]).phase = .busy ∧ StepResets (running 2 [] [.rst]) ∧
      ∃ t, step (running 2 [] [.rst]) = .next t := ⟨rfl, resets_rst, _, rfl⟩
theorem witness_ResetAbandons_soft :
    (running 1 [opSrst] [.host]).phase = .busy ∧ StepResets (running 1 [opSrst] [.host]) ∧
      ∃ t, step (running 1 [opSrst] [.host]) = .next t := ⟨rfl, .inr ⟨2, ⟨0x04#6, rfl, rfl⟩, rfl⟩, _, rfl⟩
theorem witness_StepKeepsInv_busy :
    (running 1 [] [.engine]).Inv ∧ ∃ t, step (running 1 [] [.engine]) = .next t ∧ t.statusDone = true :=
  ⟨running_inv _ _ _ (by decide), _, rfl, rfl⟩
theorem witness_StepKeepsInv_error :
    (failed [opAck] [.host]).Inv ∧ ∃ t, step (failed [opAck] [.host]) = .next t ∧
      t.statusErrcode = some .nonInvertibleInput := ⟨failed_inv _ _, _, rfl, rfl⟩
theorem witness_CtrlWrite : (0xFFFFFFFD#32).getLsbD 1 = false ∧ (0x00000003#32).getLsbD 1 = true := by decide
theorem witness_StatusWrite : (running 1 [] []).Inv ∧ (running 1 [] []).phase = .busy :=
  ⟨running_inv _ _ _ (by decide), rfl⟩
theorem witness_idle : (failed [] []).phase = .idle := rfl
theorem witness_busy : (running 1 [] []).phase = .busy := rfl

theorem witness_Undeliverable_port :
    (running 2 [.access (.write 0x3D#6 1)] [.host]).env.sched = .host :: [] ∧ (0x3D#6).toNat % 4 ≠ 0 ∧
      (0x02#6).toNat % 4 ≠ 0 := ⟨rfl, by decide, by decide⟩
theorem witness_Undeliverable_width :
    Config.engineBase ≤ Config.engineBase + 63 ∧ Config.engineBase + 63 < Config.engineBase + 64 ∧
      (running 2 [.memWrite (Config.engineBase + 63) [1]] [.host]).env.bus =
        .memWrite (Config.engineBase + 63) [1] :: [] ∧ [(1 : Byte)].length ≠ 4 := ⟨by omega, by omega, rfl, by decide⟩
theorem witness_Undeliverable_alignment :
    (Config.engineBase + 1) % 4 ≠ 0 ∧ (Config.engineBase + 61) % 4 ≠ 0 := by
  unfold Config.engineBase
  omega
theorem witness_OutsideWindow :
    (running 2 [.memRead (Config.engineBase + 64) 4] [.host]).env.bus = .memRead (Config.engineBase + 64) 4 :: [] ∧
      Config.engineBase + 64 ≤ Config.engineBase + 64 := ⟨rfl, le_refl _⟩
theorem witness_OutsideWindow_below (h : 0 < Config.engineBase) : Config.engineBase - 1 < Config.engineBase := by omega
theorem witness_ByteLanes : (0x00#6).toNat % 4 = 0 ∧ (0x3C#6).toNat % 4 = 0 := by decide
theorem witness_HostStep_read :
    (running 2 [opRd .res] [.host]).env.sched = .host :: [] ∧ (0x1C#6).toNat % 4 = 0 ∧
      (running 2 [opRd .res] [.host]).env.bus = .access (.read 0x1C#6) :: [] := ⟨rfl, by decide, rfl⟩
theorem witness_HostStep_write :
    (running 2 [.access (.write 0x3C#6 0)] [.host]).env.sched = .host :: [] ∧ (0x3C#6).toNat % 4 = 0 ∧
      (running 2 [.access (.write 0x3C#6 0)] [.host]).env.bus = .access (.write 0x3C#6 0) :: [] :=
  ⟨rfl, by decide, rfl⟩
theorem witness_Wait_busy :
    (running 2 [opWait] [.host]).env.bus = .wait :: [] ∧ (running 2 [opWait] [.host]).statusDone = false := ⟨rfl, rfl⟩
theorem witness_Wait_done :
    (failed [opWait] [.host]).env.bus = .wait :: [] ∧ (failed [opWait] [.host]).statusDone = true := ⟨rfl, rfl⟩

theorem witness_IdleEngine : (failed [] [.engine]).phase = .idle ∧ (failed [] [.engine]).env.sched = .engine :: [] :=
  ⟨rfl, rfl⟩
theorem witness_Overrun_stays :
    (failed [opAck] [.host]).statusOvr = true ∧ ∃ t, step (failed [opAck] [.host]) = .next t ∧ t.statusOvr = true :=
  ⟨rfl, _, rfl, rfl⟩
theorem witness_ResetAbandons_completion :
    (running 1 [] [.engine]).phase = .busy ∧ ¬ StepResets (running 1 [] [.engine]) ∧
      ∃ t, step (running 1 [] [.engine]) = .next t ∧ t.phase = .idle := by
  refine ⟨rfl, ?_, _, rfl, rfl⟩
  rintro (h | ⟨v, ⟨off, h1, _⟩, _⟩)
  · cases h
  · cases h1
theorem witness_Advance :
    (running 2 [] [.engine]).phase = .busy ∧ 2 ≤ (running 2 [] [.engine]).work ∧
      (running 2 [] [.engine]).env.sched = .engine :: [] := ⟨rfl, le_refl _, rfl⟩
theorem witness_StepRunsDecoded :
    (running 1 [] [.engine]).phase = .busy ∧ (running 1 [] [.engine]).work ≤ 1 ∧
      (running 1 [] [.engine]).env.sched = .engine :: [] ∧ decode (running 1 [] [.engine]).lat.cmd = some .isprime :=
  ⟨rfl, le_refl _, rfl, by decide⟩
/-- One illegal word for each clause of R85, at the ends of its ranges, in a busy state at its last step. -/
theorem witness_IllegalWord :
    (State.withFetchWord State.reset 32 0x101).phase = .busy ∧ (State.withFetchWord State.reset 32 0x101).work ≤ 1 ∧
    (State.withFetchWord State.reset 32 0x101).env.sched = .engine :: [] ∧
    (0x101#32).extractLsb' 8 24 ≠ 0#24 ∧ ((0x10#32).extractLsb' 0 4).toNat = 0 ∧
    7 ≤ ((0x7#32).extractLsb' 0 4).toNat ∧ 7 ≤ ((0xF#32).extractLsb' 0 4).toNat ∧
    (1 ≤ ((0x11#32).extractLsb' 0 4).toNat ∧ ((0x11#32).extractLsb' 4 4).toNat ≠ 0) ∧
    (((0xF4#32).extractLsb' 0 4).toNat ≤ 4 ∧ ((0xF4#32).extractLsb' 4 4).toNat ≠ 0) ∧
    (((0x25#32).extractLsb' 0 4).toNat = 5 ∧ 1 < ((0x25#32).extractLsb' 4 4).toNat) ∧
    (((0xF6#32).extractLsb' 0 4).toNat = 6 ∧ 1 < ((0xF6#32).extractLsb' 4 4).toNat) :=
  ⟨rfl, le_refl _, rfl, by decide, by decide, by decide, by decide, by decide, by decide, by decide, by decide⟩
theorem witness_ResultsDependOnLatchOnly :
    (running 1 [] []).lat = ({ running 1 [] [] with ctrlIe := false, opa := 8, res := 5 } : State).lat := rfl

/-- A reset state with the given operands latched. -/
def latched (a b m : Word) : State := { State.reset with lat := { cmd := 0, opa := a, opb := b, opm := m } }

theorem witness_Modpow_Modmul_ok :
    0 < (latched 0 0 1).lat.opm.toInt ∧ 0 ≤ (latched 0 0 1).lat.opa.toInt ∧ 0 ≤ (latched 0 0 1).lat.opb.toInt := by
  decide
theorem witness_Modpow_Modmul_error :
    (latched 0 0 0).lat.opm.toInt ≤ 0 ∧ (latched (-1) 0 1).lat.opa.toInt < 0 ∧
      (latched 0 0x80000000 1).lat.opb.toInt < 0 := by decide
theorem witness_Modinv_ok :
    0 < (latched 0 0 1).lat.opm.toInt ∧ 0 ≤ (latched 0 0 1).lat.opa.toInt ∧
      Nat.gcd (latched 0 0 1).lat.opa.toNat (latched 0 0 1).lat.opm.toNat = 1 := by decide
theorem witness_Modinv_not_coprime :
    0 < (latched 0 0 7).lat.opm.toInt ∧ 0 ≤ (latched 0 0 7).lat.opa.toInt ∧
      Nat.gcd (latched 0 0 7).lat.opa.toNat (latched 0 0 7).lat.opm.toNat ≠ 1 := by decide
theorem witness_Modinv_error : (latched 3 0 0).lat.opm.toInt ≤ 0 ∧ (latched (-3) 0 7).lat.opa.toInt < 0 := by decide
theorem witness_ExtEuclid : (0 : Int) ≤ 0 ∧ (0 : Int) < 1 := by decide
theorem witness_Isprime_prime : true = true ↔ Nat.Prime (latched 2 0 0).lat.opa.toInt.toNat :=
  ⟨fun _ => Nat.prime_two, fun _ => rfl⟩
theorem witness_Isprime_negative : false = true ↔ Nat.Prime (latched (-1) 0 0).lat.opa.toInt.toNat :=
  ⟨fun h => (by cases h), fun h => absurd h Nat.not_prime_zero⟩
theorem witness_SafeprimeQ_true :
    true = true ↔ 1 ≤ (latched 5 0 0).lat.opa.toInt ∧ Nat.Prime (latched 5 0 0).lat.opa.toNat ∧
      Nat.Prime (((latched 5 0 0).lat.opa.toNat - 1) / 2) :=
  ⟨fun _ => ⟨by decide, Nat.prime_five, Nat.prime_two⟩, fun _ => rfl⟩
theorem witness_SafeprimeQ_false :
    false = true ↔ 1 ≤ (latched 0 0 0).lat.opa.toInt ∧ Nat.Prime (latched 0 0 0).lat.opa.toNat ∧
      Nat.Prime (((latched 0 0 0).lat.opa.toNat - 1) / 2) :=
  ⟨fun h => (by cases h), fun h => absurd h.1 (by decide)⟩
theorem witness_SafeprimeP_ok :
    0 ≤ (latched 2 0 0).lat.opa.toInt ∧ (latched 2 0 0).lat.opa.toInt ≤ 1073741823 ∧
      (true = true ↔ Nat.Prime (latched 2 0 0).lat.opa.toNat ∧ Nat.Prime (2 * (latched 2 0 0).lat.opa.toNat + 1)) :=
  ⟨by decide, by decide, fun _ => ⟨Nat.prime_two, Nat.prime_five⟩, fun _ => rfl⟩
theorem witness_SafeprimeP_error :
    (latched (-1) 0 0).lat.opa.toInt < 0 ∧ 1073741823 < (latched 0x40000000 0 0).lat.opa.toInt := by decide
theorem witness_SafeprimeFormsAgree :
    (latched 0x3FFFFFFF 0 0).lat.opa.toInt ≤ 1073741823 ∧
      (latched 0x7FFFFFFF 0 0).lat.opa = 2 * (latched 0x3FFFFFFF 0 0).lat.opa + 1 ∧
      0 ≤ (latched 0 0 0).lat.opa.toInt ∧ (latched 1 0 0).lat.opa = 2 * (latched 0 0 0).lat.opa + 1 := by decide
/-- q = 7: the candidate 2 passes and is the least (p = 3). -/
theorem witness_GenfindSub_found :
    3 ≤ (latched 7 0 0).lat.opa.toInt ∧ (2 ≤ 2 ∧ 2 ≤ 7 - 1 ∧ 2 * 2 % 7 ≠ 1 ∧ 2 ^ 3 % 7 = 1) ∧
      ∀ h : Nat, (2 ≤ h ∧ h ≤ 7 - 1 ∧ h * h % 7 ≠ 1 ∧ h ^ 3 % 7 = 1) → 2 ≤ h :=
  ⟨by decide, by decide, fun _ h => h.1⟩
/-- q = 3: no candidate passes (p = 1). -/
theorem witness_GenfindSub_none :
    3 ≤ (latched 3 0 0).lat.opa.toInt ∧
      ∀ g : Nat, ¬ (2 ≤ g ∧ g ≤ 3 - 1 ∧ g * g % 3 ≠ 1 ∧ g ^ 1 % 3 = 1) :=
  ⟨by decide, fun g h => by
    obtain rfl : g = 2 := by omega
    exact h.2.2.1 rfl⟩
/-- q = 5: the candidate 2 passes REF and is the least (p = 2). -/
theorem witness_GenfindRef_found :
    3 ≤ (latched 5 0 0).lat.opa.toInt ∧ (2 ≤ 2 ∧ 2 ≤ 5 - 1 ∧ 2 * 2 % 5 ≠ 1 ∧ 2 ^ 5 % 2 ≠ 1) ∧
      ∀ h : Nat, (2 ≤ h ∧ h ≤ 5 - 1 ∧ h * h % 5 ≠ 1 ∧ h ^ 5 % 2 ≠ 1) → 2 ≤ h :=
  ⟨by decide, by decide, fun _ h => h.1⟩
/-- q = 3: no candidate passes REF (p = 1). -/
theorem witness_GenfindRef_none :
    3 ≤ (latched 3 0 0).lat.opa.toInt ∧
      ∀ g : Nat, ¬ (2 ≤ g ∧ g ≤ 3 - 1 ∧ g * g % 3 ≠ 1 ∧ g ^ 3 % 1 ≠ 1) :=
  ⟨by decide, fun g h => by
    obtain rfl : g = 2 := by omega
    exact h.2.2.1 rfl⟩
theorem witness_Genfind_error : (latched 2 0 0).lat.opa.toInt < 3 ∧ (latched 0x80000000 0 0).lat.opa.toInt < 3 := by
  decide
theorem witness_GenfindSubOnSafePrime :
    (latched 7 0 0).lat.opa.toInt = (7 : Nat) ∧ 7 = 2 * 3 + 1 ∧ Nat.Prime 7 ∧ Nat.Prime 3 :=
  ⟨by decide, rfl, by norm_num, by norm_num⟩
theorem witness_GenfindSubOnSafePrime_three : Nat.Prime 11 ∧ Nat.Prime 5 ∧ 11 % 8 = 3 :=
  ⟨by norm_num, by norm_num, rfl⟩
theorem witness_GenfindRefOnSafePrime :
    (latched 5 0 0).lat.opa.toInt = (5 : Nat) ∧ 5 = 2 * 2 + 1 ∧ Nat.Prime 5 ∧ Nat.Prime 2 :=
  ⟨by decide, rfl, by norm_num, by norm_num⟩
/-- The machine one engine step before the end of the command word `w` on operands `a` and `m`. -/
def lastStep (w : Nat) (a m : Word) : State := State.withFetchWord { State.reset with opa := a, opm := m } 32 w

theorem witness_ErrorRecord_completes : StepCompletes (lastStep 0x02 6 9) := ⟨rfl, rfl, le_refl _⟩
theorem witness_ErrorRecord_illegal :
    ∃ t, step (lastStep 0x11 0 0) = .next t ∧ t.statusErrcode = some .illegalCommand := ⟨_, rfl, rfl⟩
theorem witness_ErrorRecord_precondition :
    ∃ t, step (lastStep 0x01 1 0) = .next t ∧ t.statusErrcode = some .preconditionViolation := ⟨_, rfl, rfl⟩
theorem witness_ErrorRecord_inverse :
    ∃ t, step (lastStep 0x02 6 9) = .next t ∧ t.statusErrcode = some .nonInvertibleInput := ⟨_, rfl, rfl⟩
theorem witness_ErrorRecord_domain :
    ∃ t, step (lastStep 0x06 5 0) = .next t ∧ t.statusErrcode = some .domainConstructionFailure := ⟨_, rfl, rfl⟩
theorem witness_StoredValues :
    latchOutcome { cmd := 3, opa := 2, opb := 3, opm := 5 } = .ok 1 0 false ∧
      latchOutcome { cmd := 0, opa := 2, opb := 3, opm := 5 } = .err .illegalCommand 0 := by decide
theorem witness_Datapath :
    (0 : Int) ≤ (0x7FFFFFFF#32).toInt ∧ 0 < (0x7FFFFFFF#32).toInt ∧ 0 ≤ (0#32).toInt ∧ 3 ≤ (3#32).toInt := by decide

/-! The steps below meet the premises of the whole-machine rules one by one. -/

theorem witness_flags_accept :
    ∃ t, step { failed [opCmd .isprime] [.host] with env := { Env.empty with bus := [opCmd .isprime], sched := [.host] } } =
      .next t ∧ t.phase = .busy ∧ t.statusDone = false ∧ t.statusErrcode = none ∧ t.cmd ≠ 2 := by
  refine ⟨_, rfl, ?_, ?_, ?_, ?_⟩ <;> decide
theorem witness_flags_complete :
    ∃ t, step (running 1 [] [.engine]) = .next t ∧ t.phase = .idle ∧ t.statusDone = true ∧ t.statusBool = true ∧
      t.res ≠ (running 1 [] [.engine]).res ∧ irq (running 1 [] [.engine]) = false ∧ irq t = true :=
  ⟨_, rfl, rfl, rfl, rfl, by decide, rfl, rfl⟩
theorem witness_flags_bool_clears :
    ∃ t, step { running 1 [] [.engine] with statusBool := true, lat := { cmd := 1, opa := 1, opb := 0, opm := 0 } } =
      .next t ∧ t.statusBool = false ∧ t.statusErrcode = some .preconditionViolation := ⟨_, rfl, rfl, rfl⟩
theorem witness_flags_overrun :
    ∃ t, step (running 2 [opCmd .modpow] [.host]) = .next t ∧ t.statusOvr = true := ⟨_, rfl, rfl⟩
theorem witness_flags_write_clears :
    ∃ t, step (failed [opWr .status 0x12] [.host]) = .next t ∧ t.statusDone = false ∧ t.statusOvr = false ∧
      irq (failed [opWr .status 0x12] [.host]) = true ∧ irq t = false := ⟨_, rfl, rfl, rfl, rfl, rfl⟩
theorem witness_flags_reset :
    ∃ t, step (failed [] [.rst]) = .next t ∧ t.statusDone = false ∧ t.ctrlIe = false ∧ t.opa ≠ 6 ∧ t.aux ≠ 3 ∧
      t.opm ≠ 9 := ⟨_, rfl, rfl, rfl, by decide, by decide, by decide⟩
theorem witness_registers_operand :
    ∃ t, step (running 2 [opWr .opb 7] [.host]) = .next t ∧ t.opb ≠ (running 2 [opWr .opb 7] [.host]).opb :=
  ⟨_, rfl, by decide⟩
theorem witness_irq_enable :
    ∃ t, step { failed [opWr .ctrl 1] [.host] with ctrlIe := false } = .next t ∧ irq t = true ∧ t.ctrlIe = true :=
  ⟨_, rfl, rfl, rfl⟩
theorem witness_HostStepsLeave :
    (running 2 [opWr .opa 5] [.host]).phase = .busy ∧ currentMove (running 2 [opWr .opa 5] [.host]) = .host ∧
      ¬ StepResets (running 2 [opWr .opa 5] [.host]) ∧ ∃ t, step (running 2 [opWr .opa 5] [.host]) = .next t := by
  refine ⟨rfl, rfl, ?_, _, rfl⟩
  rintro (h | ⟨v, ⟨off, h1, h2⟩, h3⟩)
  · cases h
  · have h4 : stepAccess (running 2 [opWr .opa 5] [.host]) = some (.write 0x10#6 5) := rfl
    rw [h4] at h1
    obtain ⟨rfl, rfl⟩ := BusAccess.write.inj (Option.some.inj h1)
    revert h3
    decide
/-- Three engine moves, then a host move. -/
def threeThenHost : List Move := [.engine, .engine, .engine, .host]

theorem witness_ExactlyWork :
    (running 3 [] threeThenHost).phase = .busy ∧ 1 ≤ (running 3 [] threeThenHost).work ∧
      (running 3 [] threeThenHost).env.sched = List.replicate 3 Move.engine ++ [Move.host] :=
  ⟨rfl, by decide, rfl⟩
theorem witness_EveryInterleaving :
    (running 2 [opWr .opa 5, opCmd .modpow] [.host, .engine, .host, .engine]).phase = .busy ∧
      Move.rst ∉ [Move.host, .engine, .host, .engine] ∧
      max 1 2 ≤ [Move.host, .engine, .host, .engine].count .engine ∧
      ∀ op ∈ (running 2 [opWr .opa 5, opCmd .modpow] [.host, .engine, .host, .engine]).env.bus,
        ∃ a, deliver op = .ok a ∧ isSoftReset a = false := by
  refine ⟨rfl, by decide, by decide, ?_⟩
  intro op h
  have h2 : op = opWr .opa 5 ∨ op = opCmd .modpow := by simpa [running] using h
  rcases h2 with rfl | rfl
  · exact ⟨_, rfl, by decide⟩
  · exact ⟨_, rfl, by decide⟩
theorem witness_LatAndWork :
    (failed [opRd .res] [.host]).phase = .idle ∧ (∃ t, step (failed [opRd .res] [.host]) = .next t) ∧
      step (failed [.access (.read 0x01#6)] [.host]) = .refused .unalignedAccess := ⟨rfl, ⟨_, rfl⟩, rfl⟩
theorem witness_BothOrders_write_first :
    (running 1 [opCmd .modpow] [.host, .engine]).phase = .busy ∧ (running 1 [opCmd .modpow] [.host, .engine]).work ≤ 1 ∧
      (running 1 [opCmd .modpow] [.host, .engine]).env.bus = .access (.write 0x0C#6 1) :: [] ∧
      (running 1 [opCmd .modpow] [.engine, .host]).env.sched = .engine :: .host :: [] := ⟨rfl, le_refl _, rfl, rfl⟩
theorem witness_BothOrders_reset :
    (running 1 [opSrst] [.host, .engine]).env.bus = .access (.write 0x04#6 2) :: [] ∧ (2#32).getLsbD 1 = true := ⟨rfl, rfl⟩
theorem witness_Polling :
    (running 1 [] [.engine]).Inv ∧ (running 1 [] [.engine]).phase = .busy ∧ StepCompletes (running 1 [] [.engine]) ∧
      ∃ t, step (running 1 [] [.engine]) = .next t :=
  ⟨running_inv _ _ _ (by decide), rfl, ⟨rfl, rfl, le_refl _⟩, _, rfl⟩


/-! The premises of polling: an accept, a busy engine with an operand write, a completed one with a read. -/

theorem witness_Polling_accept :
    StepAccepts (failed [opCmd .isprime] [.host]) ∧ ∃ t, step (failed [opCmd .isprime] [.host]) = .next t :=
  ⟨⟨rfl, 4, 0x0C#6, rfl, rfl⟩, _, rfl⟩
theorem witness_Polling_busy :
    (busRead 0x08#6 (running 2 [opWr .opa 5] [.host])).getLsbD 0 = true ∧
      (busRead 0x08#6 (running 2 [opWr .opa 5] [.host])).getLsbD 1 = false ∧
      ¬ StepCompletes (running 2 [opWr .opa 5] [.host]) ∧ ¬ StepResets (running 2 [opWr .opa 5] [.host]) ∧
      ∃ t, step (running 2 [opWr .opa 5] [.host]) = .next t :=
  ⟨by decide, by decide, fun h => (by cases h.1), witness_HostStepsLeave.2.2.1, _, rfl⟩
theorem witness_Polling_done :
    (busRead 0x08#6 (failed [opRd .res] [.host])).getLsbD 0 = false ∧
      (busRead 0x08#6 (failed [opRd .res] [.host])).getLsbD 1 = true ∧
      (∀ (r : Reg) (v : Word), ¬ StepWrites (failed [opRd .res] [.host]) r v) ∧
      ∃ t, step (failed [opRd .res] [.host]) = .next t := by
  refine ⟨by decide, by decide, ?_, _, rfl⟩
  rintro r v ⟨off, h, _⟩
  cases h
/-- With no register written, the step neither acknowledges, accepts nor resets. -/
theorem witness_Polling_done_quiet :
    ¬ StepAccepts (failed [opRd .res] [.host]) ∧ ¬ StepResets (failed [opRd .res] [.host]) := by
  refine ⟨fun h => ?_, fun h => ?_⟩
  · obtain ⟨_, w, hw⟩ := h
    exact witness_Polling_done.2.2.1 _ _ hw
  · rcases h with h | ⟨v, hv, _⟩
    · cases h
    · exact witness_Polling_done.2.2.1 _ _ hv

end Sys2Proof.Tests
end

section
/-! Proofs for 00_scope.md (R5, R8): the 64-bit datapath computes the integer results, and every value a
completion stores fits its register. -/

namespace Sys2Proof.Machine

/-! ### Integers as datapath values -/

/-- The wrapping difference of two integers' datapath values is the value of their difference. -/
theorem ofInt_sub64 (x y : Int) : BitVec.ofInt 64 (x - y) = BitVec.ofInt 64 x - BitVec.ofInt 64 y := by
  apply BitVec.eq_of_toInt_eq
  simp only [BitVec.toInt_sub, BitVec.toInt_ofInt, Int.sub_bmod_bmod, Int.bmod_sub_bmod]

/-- An integer of the datapath's signed range survives the round trip. -/
theorem toInt_ofInt64 {x : Int} (h : -2 ^ 63 ≤ x) (h' : x < 2 ^ 63) : (BitVec.ofInt 64 x).toInt = x :=
  BitVec.toInt_ofInt_eq_self (by decide) h h'

/-- Only 0 of the non-negative datapath range is the zero word. -/
theorem ofInt64_eq_zero_iff {x : Int} (h : 0 ≤ x) (h' : x < 2 ^ 63) : BitVec.ofInt 64 x = 0#64 ↔ x = 0 := by
  rw [← BitVec.toInt_inj, toInt_ofInt64 (by omega) h', BitVec.toInt_zero]

/-- Signed division of non-negative values is the floor division of R9. -/
theorem sdiv_ofInt64 {x y : Int} (hx : 0 ≤ x) (hx' : x < 2 ^ 63) (hy : 0 ≤ y) (hy' : y < 2 ^ 63) :
    (BitVec.ofInt 64 x).sdiv (BitVec.ofInt 64 y) = BitVec.ofInt 64 (x / y) := by
  have hle : x / y ≤ x := Int.ediv_le_self y hx
  have hpos : 0 ≤ x / y := Int.ediv_nonneg hx hy
  apply BitVec.eq_of_toInt_eq
  rw [BitVec.toInt_sdiv, toInt_ofInt64 (by omega) hx', toInt_ofInt64 (by omega) hy',
    Int.tdiv_eq_ediv_of_nonneg hx, BitVec.toInt_ofInt]

/-- Widening an operand register gives the datapath value of its integer (R8 `sext_64`). -/
theorem widen_eq_ofInt (w : Word) : widen w = BitVec.ofInt 64 w.toInt := by
  rw [← widen_toInt, BitVec.ofInt_toInt]

/-! ### Square-and-multiply -/

/-- `ModPow` in closed form (R142, R143). -/
theorem modPow_eq (a n m : Nat) : modPow a n m = if n = 0 then 1 else a ^ n % m := by
  unfold modPow
  rw [modPowLoop_eq m n 1 a n le_rfl, one_mul]

/-- `ModPow` never exceeds its modulus; it reaches it for `n = 0`, `m = 1` (R143). -/
theorem modPow_le_modulus (a n : Nat) {m : Nat} (hm : 0 < m) : modPow a n m ≤ m := by
  rw [modPow_eq]
  split
  · exact hm
  · exact (Nat.mod_lt _ hm).le

/-- The datapath loop of R142 on accumulator and base below 2^31 gives the integer loop's accumulator:
every product is reduced below 2^31 again before the next. -/
theorem modPowLoop64_toNat {M : BitVec 64} (hM : 0 < M.toNat) (hM' : M.toNat < 2 ^ 31) (fuel : Nat)
    {R B : BitVec 64} (E : BitVec 64) (hR : R.toNat < 2 ^ 31) (hB : B.toNat < 2 ^ 31) :
    (modPowLoop64 M fuel R B E).toNat = modPowLoop M.toNat fuel R.toNat B.toNat E.toNat := by
  induction fuel generalizing R B E with
  | zero => rfl
  | succ fuel ih =>
    have hmod (k : Nat) : k % M.toNat < 2 ^ 31 := (Nat.mod_lt k hM).trans hM'
    have hRB := mulMod64_toNat (x := R) (y := B) rfl rfl rfl hR hB hM hM'
    have hBB := mulMod64_toNat (x := B) (y := B) rfl rfl rfl hB hB hM hM'
    have hE : (E >>> 1).toNat = E.toNat / 2 := by
      rw [BitVec.toNat_ushiftRight, Nat.shiftRight_one]
    have hzero : E = 0#64 ↔ E.toNat = 0 := BitVec.toNat_inj.symm
    have hbit : E.getLsbD 0 = true ↔ E.toNat % 2 = 1 := by
      simp [BitVec.getLsbD, Nat.testBit_zero]
    unfold modPowLoop64 modPowLoop
    by_cases h0 : E.toNat = 0
    · rw [if_pos h0, if_pos (hzero.2 h0)]
    · rw [if_neg h0, if_neg (mt hzero.1 h0)]
      by_cases h1 : E.toNat % 2 = 1
      · rw [if_pos h1, if_pos (hbit.2 h1), ← hE, ← hRB, ← hBB]
        exact ih _ (hRB ▸ hmod _) (hBB ▸ hmod _)
      · rw [if_neg h1, if_neg (mt hbit.1 h1), ← hE, ← hBB]
        exact ih _ hR (hBB ▸ hmod _)

/-- Settles O48: both results are at most the modulus, so the unsigned equalities of the loop and of one
reduced product are equalities of integers. -/
theorem datapathModPowExact : Obligations.DatapathModPowExact := by
  unfold Obligations.DatapathModPowExact
  intro a n m ha hn hm
  obtain ⟨hwa, hla, hia⟩ := widen_toNat ha
  obtain ⟨hwn, hln, hin⟩ := widen_toNat hn
  obtain ⟨hwm, hlm, him⟩ := widen_toNat hm.le
  have hpos : 0 < m.toNat := by omega
  constructor
  · have hpow := modPowLoop64_toNat (hwm ▸ hpos) (hwm ▸ hlm) n.toNat (R := 1#64) (widen n)
      (by decide) (hwa ▸ hla)
    rw [hwm, hwa, hwn] at hpow
    have hle := modPow_le_modulus a.toNat n.toNat hpos
    exact toInt_of_toNat hpow (by omega)
  · have hprod := mulMod64_toNat hwa hwn hwm hla hln hpos hlm
    have hlt : a.toNat * n.toNat % m.toNat < m.toNat := Nat.mod_lt _ hpos
    rw [toInt_of_toNat hprod (by omega), hia, hin, him]
    norm_cast

/-! ### Extended Euclid -/

/-- The datapath loop of R151 on the datapath values of non-negative remainders gives the datapath values of
the integer loop: its quotients are exact, and wrapping subtraction and product respect `BitVec.ofInt`. -/
theorem extEuclidLoop64_ofInt (fuel : Nat) {x y : Int} (u v : Int) (hx : 0 ≤ x) (hx' : x < 2 ^ 63)
    (hy : 0 ≤ y) (hy' : y < 2 ^ 63) :
    extEuclidLoop64 fuel (.ofInt 64 x) (.ofInt 64 y) (.ofInt 64 u) (.ofInt 64 v) =
      (.ofInt 64 (extEuclidLoop fuel x y u v).1, .ofInt 64 (extEuclidLoop fuel x y u v).2) := by
  induction fuel generalizing x y u v with
  | zero => rfl
  | succ fuel ih =>
    unfold extEuclidLoop64 extEuclidLoop
    by_cases h0 : y = 0
    · rw [if_pos h0, if_pos ((ofInt64_eq_zero_iff hy hy').2 h0)]
    · rw [if_neg h0, if_neg (mt (ofInt64_eq_zero_iff hy hy').1 h0), sdiv_ofInt64 hx hx' hy hy',
        ← BitVec.ofInt_mul, ← BitVec.ofInt_mul, ← ofInt_sub64, ← ofInt_sub64]
      have hrem : x - x / y * y = x % y := by rw [Int.emod_def, mul_comm]
      have hlt : x % y < y := Int.emod_lt_of_pos x (by omega)
      exact ih _ _ hy hy' (hrem ▸ Int.emod_nonneg x h0) (by omega)

/-- No coefficient of `a` the loop reaches exceeds the modulus: after an iteration, `EuclidValues.bound`
has the factor `y >= 1` on the new one. -/
theorem extEuclidLoop_coeff_le {a0 m0 : Int} (fuel : Nat) {x y u v : Int}
    (h : EuclidValues a0 m0 x y u v) (hu : |u| ≤ m0) (hv : |v| ≤ m0) :
    |(extEuclidLoop fuel x y u v).2| ≤ m0 := by
  induction fuel generalizing x y u v with
  | zero => exact hu
  | succ fuel ih =>
    unfold extEuclidLoop
    by_cases h0 : y = 0
    · rwa [if_pos h0]
    · rw [if_neg h0]
      have hnext := euclidValues_next h h0
      have hy : 1 ≤ y := by have := h.y_nonneg; omega
      have hterm : 0 ≤ |v| * (x - x / y * y) := mul_nonneg (abs_nonneg _) hnext.y_nonneg
      have hle : |u - x / y * v| ≤ |u - x / y * v| * y := le_mul_of_one_le_right (abs_nonneg _) hy
      exact ih hnext hv (by have := hnext.bound; omega)

/-- The coefficient `ExtEuclid` returns is at most the modulus in size. -/
theorem extEuclid_coeff_le {a m : Int} (ha : 0 ≤ a) (hm : 0 < m) : |(extEuclid a m).2| ≤ m :=
  extEuclidLoop_coeff_le _ (euclidValues_start ha hm) (by rw [abs_one]; omega) (by rw [abs_zero]; omega)

/-- The first result of `ExtEuclid` is the gcd (R151). -/
theorem extEuclid_fst {a m : Int} (ha : 0 ≤ a) (hm : 0 < m) : (extEuclid a m).1 = Int.gcd a m := by
  obtain ⟨_, h⟩ := extEuclidLoop_values m.toNat a m 1 0 (euclidValues_start ha hm) le_rfl
  have hgcd := h.gcd_eq
  rw [Int.gcd_zero_right] at hgcd
  rw [← hgcd]
  exact (Int.natAbs_of_nonneg h.x_nonneg).symm

/-- The gcd `ExtEuclid` returns lies between 0 and the modulus. -/
theorem extEuclid_fst_range {a m : Int} (ha : 0 ≤ a) (hm : 0 < m) :
    0 ≤ (extEuclid a m).1 ∧ (extEuclid a m).1 ≤ m := by
  rw [extEuclid_fst ha hm]
  exact ⟨Int.natCast_nonneg _, Int.le_of_dvd hm (Int.gcd_dvd_right ..)⟩

/-- Settles O49: the datapath loop ends in the datapath values of the integer results, and both results are
at most the modulus in size, so they are read back exactly. -/
theorem datapathExtEuclidExact : Obligations.DatapathExtEuclidExact := by
  unfold Obligations.DatapathExtEuclidExact
  intro a m ha hm
  obtain ⟨-, hla, hia⟩ := widen_toNat ha
  obtain ⟨-, hlm, him⟩ := widen_toNat hm.le
  have hloop : extEuclid64 a m =
      (.ofInt 64 (extEuclid a.toInt m.toInt).1, .ofInt 64 (extEuclid a.toInt m.toInt).2) := by
    unfold extEuclid64 extEuclid
    rw [widen_eq_ofInt, widen_eq_ofInt, him, Int.toNat_natCast, ← him]
    exact extEuclidLoop64_ofInt m.toNat 1 0 ha (by omega) hm.le (by omega)
  obtain ⟨hg, hg'⟩ := extEuclid_fst_range ha hm
  obtain ⟨hu, hu'⟩ := abs_le.1 (extEuclid_coeff_le ha hm)
  rw [hloop]
  exact ⟨toInt_ofInt64 (by omega) (by omega), toInt_ofInt64 (by omega) (by omega)⟩

/-! ### Trial division -/

/-- The datapath loop of R131 finds the integer loop's divisor: a candidate that passes `d * d <= n` is below
2^16, so neither the next candidate nor its square wraps. -/
theorem firstOddDivisor64_toNat {N : BitVec 64} (hN : N.toNat < 2 ^ 31) (fuel : Nat) {D : BitVec 64}
    (hD : 0 < D.toNat) (hD' : D.toNat < 2 ^ 31) :
    (firstOddDivisor64 N fuel D).map BitVec.toNat = firstOddDivisor N.toNat fuel D.toNat := by
  induction fuel generalizing D with
  | zero => rfl
  | succ fuel ih =>
    have hsq : (D * D).toNat = D.toNat * D.toNat := by
      rw [BitVec.toNat_mul]
      exact Nat.mod_eq_of_lt (by nlinarith)
    have hNi : N.toInt = N.toNat := toInt_of_toNat rfl (by omega)
    have hDi : D.toInt = D.toNat := toInt_of_toNat rfl (by omega)
    have hle : (D * D).sle N = true ↔ D.toNat * D.toNat ≤ N.toNat := by
      rw [BitVec.sle_iff_toInt_le, hNi, toInt_of_toNat hsq (by nlinarith)]
      norm_cast
    have hdvd : N.smod D = 0#64 ↔ N.toNat % D.toNat = 0 := by
      rw [← BitVec.toInt_inj, BitVec.toInt_smod, hNi, hDi, Int.fmod_eq_emod_of_nonneg _ (by positivity),
        BitVec.toInt_zero]
      norm_cast
    unfold firstOddDivisor64 firstOddDivisor
    by_cases h1 : D.toNat * D.toNat ≤ N.toNat
    · rw [if_pos h1, if_pos (hle.2 h1)]
      by_cases h2 : N.toNat % D.toNat = 0
      · rw [if_pos h2, if_pos (hdvd.2 h2)]
        rfl
      · have hsmall : D.toNat < 2 ^ 16 := by nlinarith
        have hnext : (D + 2#64).toNat = D.toNat + 2 := by
          rw [BitVec.toNat_add]
          exact Nat.mod_eq_of_lt (by rw [BitVec.toNat_ofNat]; omega)
        rw [if_neg h2, if_neg (mt hdvd.1 h2), ← hnext]
        exact ih (by omega) (by omega)
    · rw [if_neg h1, if_neg (mt hle.1 h1)]
      rfl

/-- Settles O50: the loop's first candidate is 3. -/
theorem datapathTrialDivisionExact : Obligations.DatapathTrialDivisionExact := by
  unfold Obligations.DatapathTrialDivisionExact
  intro n hn
  obtain ⟨hw, hlt, -⟩ := widen_toNat (show 0 ≤ n.toInt by omega)
  rw [firstOddDivisor64_toNat (hw ▸ hlt) n.toNat (by decide) (by decide), hw]
  rfl

/-! ### What a completion stores -/

/-- A 31-bit-range value (R5): what a register word holds when it denotes no negative integer. -/
def InRange31 (v : Int) : Prop := 0 ≤ v ∧ v ≤ 2 ^ 31 - 1

/-- Every integer the outcome stores is a 31-bit-range value. -/
def CmdOutcome.InRange31 : CmdOutcome → Prop
  | .ok res aux _ => Machine.InRange31 res ∧ Machine.InRange31 aux
  | .err _ info => Machine.InRange31 info

theorem inRange31_zero : InRange31 0 := by unfold InRange31; omega

theorem inRange31_one : InRange31 1 := by unfold InRange31; omega

theorem inRange31_bitVal (b : Bool) : InRange31 (bitVal b) := by
  cases b
  · exact inRange31_zero
  · exact inRange31_one

/-- A non-negative integer bounded by what an operand register denotes is a 31-bit-range value. -/
theorem inRange31_of_le {v : Int} {w : Word} (h : 0 ≤ v) (hw : v ≤ sval w) : InRange31 v := by
  have : w.toInt < 2 ^ 31 := BitVec.toInt_lt
  unfold sval at hw
  exact ⟨h, by omega⟩

/-- A remainder by a positive operand is a 31-bit-range value. -/
theorem inRange31_emod (x : Int) {w : Word} (hw : 0 < sval w) : InRange31 (x % sval w) :=
  inRange31_of_le (Int.emod_nonneg x hw.ne') (Int.emod_lt_of_pos x hw).le

/-- No smallest divisor that `Witness` answers exceeds its argument. -/
theorem witnessNat_le (n : Nat) : witnessNat n ≤ n := by
  unfold witnessNat
  split
  · exact Nat.zero_le n
  · split
    · omega
    · cases hd : firstOddDivisor n n 3 with
      | none => exact Nat.zero_le n
      | some d =>
        obtain ⟨-, -, hsq, -⟩ := firstOddDivisor_some hd
        exact (Nat.le_mul_self d).trans hsq

theorem inRange31_witness (w : Word) : InRange31 (witness (sval w)) := by
  unfold witness
  split
  · exact inRange31_zero
  · have := witnessNat_le (sval w).toNat
    exact inRange31_of_le (w := w) (by omega) (by omega)

theorem outcomeModpow_inRange31 (l : Latch) : (outcomeModpow l).InRange31 := by
  unfold outcomeModpow
  split
  · exact inRange31_zero
  · have := modPow_le_modulus l.a.toNat l.b.toNat (m := l.m.toNat) (by omega)
    exact ⟨inRange31_of_le (w := l.opm) (by omega) (show _ ≤ l.m by omega), inRange31_zero⟩

theorem outcomeModmul_inRange31 (l : Latch) : (outcomeModmul l).InRange31 := by
  unfold outcomeModmul
  split
  · exact inRange31_zero
  · exact ⟨inRange31_emod _ (show 0 < l.m by omega), inRange31_zero⟩

theorem outcomeModinv_inRange31 (l : Latch) : (outcomeModinv l).InRange31 := by
  unfold outcomeModinv
  split
  · exact inRange31_zero
  · dsimp only
    obtain ⟨hg, hg'⟩ := extEuclid_fst_range (a := l.a) (m := l.m) (by omega) (by omega)
    split
    · exact inRange31_of_le (w := l.opm) hg hg'
    · exact ⟨inRange31_emod _ (show 0 < l.m by omega), inRange31_one⟩

theorem outcomeIsprime_inRange31 (l : Latch) : (outcomeIsprime l).InRange31 :=
  ⟨inRange31_bitVal _, inRange31_witness l.opa⟩

theorem outcomeSafeprimeQ_inRange31 (l : Latch) : (outcomeSafeprimeQ l).InRange31 := by
  unfold outcomeSafeprimeQ
  split
  · exact ⟨inRange31_zero, inRange31_zero⟩
  · exact ⟨inRange31_bitVal _, inRange31_of_le (w := l.opa) (by omega) (show _ ≤ l.a by omega)⟩

/-- The headroom bound 2^30 - 1 is what keeps `2 * p + 1` in the register (R165). -/
theorem outcomeSafeprimeP_inRange31 (l : Latch) : (outcomeSafeprimeP l).InRange31 := by
  unfold outcomeSafeprimeP
  split
  · exact inRange31_zero
  · exact ⟨inRange31_bitVal _, by omega, by omega⟩

theorem outcomeGenfind_inRange31 (filter : Nat → Nat → Nat → Bool) (l : Latch) :
    (outcomeGenfind filter l).InRange31 := by
  unfold outcomeGenfind
  split
  · exact inRange31_zero
  · dsimp only
    have hp : InRange31 ((l.a.toNat - 1) / 2 : Nat) :=
      inRange31_of_le (w := l.opa) (by omega) (show _ ≤ l.a by omega)
    split
    · next g hg =>
      obtain ⟨-, hle, -⟩ := genScan_some hg
      exact ⟨inRange31_of_le (w := l.opa) (by omega) (show _ ≤ l.a by omega), hp⟩
    · exact hp

/-- Every outcome of every latched word, legal or not, stores 31-bit-range values only (R5). -/
theorem latchOutcome_inRange31 (l : Latch) : (latchOutcome l).InRange31 := by
  unfold latchOutcome
  cases decode l.cmd with
  | none => exact inRange31_zero
  | some i =>
    cases i with
    | modpow => exact outcomeModpow_inRange31 l
    | modinv => exact outcomeModinv_inRange31 l
    | modmul => exact outcomeModmul_inRange31 l
    | isprime => exact outcomeIsprime_inRange31 l
    | safeprimeQ => exact outcomeSafeprimeQ_inRange31 l
    | safeprimeP => exact outcomeSafeprimeP_inRange31 l
    | genfindSub => exact outcomeGenfind_inRange31 subOk l
    | genfindRef => exact outcomeGenfind_inRange31 refOk l

/-- Settles O47: what a completion stores is never negative, so it lies in the register's range. -/
theorem storedValuesFitRegisters : Obligations.StoredValuesFitRegisters := by
  unfold Obligations.StoredValuesFitRegisters
  intro l
  have h := latchOutcome_inRange31 l
  constructor
  · intro res aux bool ho
    rw [ho] at h
    obtain ⟨⟨hres, hres'⟩, haux, haux'⟩ := h
    exact ⟨by omega, hres', by omega, haux'⟩
  · intro code info ho
    rw [ho] at h
    exact h

end Sys2Proof.Machine
end

section
/-! Proofs for 10_state.md (R20-R35), part 1: what one step of any agent does to the engine, said once. The
rules about flags, registers, `irq` and the lifecycle are read off from it. -/

namespace Sys2Proof.Machine

/-! ### The effect of a step -/

/-- What a step does to the engine, by the event that does it; `e` is whatever becomes of the surroundings. -/
inductive StepEffect (s : State) : State → Prop
  /-- A read, a write that is ignored, or a move with nothing to do. -/
  | quiet (e : Env) : StepEffect s { s with env := e }
  | resets (e : Env) (h : StepResets s) : StepEffect s { engineReset s with env := e }
  | advances (e : Env) (hm : currentMove s = .engine) (hp : s.phase = .busy) (hw : 2 ≤ s.work) :
    StepEffect s { s with work := s.work - 1, env := e }
  | completes (e : Env) (h : StepCompletes s) :
    StepEffect s { complete (latchOutcome s.lat) s with env := e }
  | accepts (w : Word) (k : Nat) (e : Env) (hp : s.phase = .idle) (hw : StepWrites s .cmd w) (hk : 1 ≤ k) :
    StepEffect s { acceptRegs w s with work := k, env := e }
  | overruns (w : Word) (e : Env) (hp : s.phase = .busy) (hw : StepWrites s .cmd w) :
    StepEffect s { s with statusOvr := true, env := e }
  | writesStatus (v : Word) (e : Env) (hw : StepWrites s .status v) :
    StepEffect s { writeStatus v s with env := e }
  | writesCtrl (v : Word) (e : Env) (hw : StepWrites s .ctrl v) (hv : v.getLsbD 1 = false) :
    StepEffect s { s with ctrlIe := v.getLsbD 0, env := e }
  | writesOpa (v : Word) (e : Env) (hw : StepWrites s .opa v) : StepEffect s { s with opa := v, env := e }
  | writesOpb (v : Word) (e : Env) (hw : StepWrites s .opb v) : StepEffect s { s with opb := v, env := e }
  | writesOpm (v : Word) (e : Env) (hw : StepWrites s .opm v) : StepEffect s { s with opm := v, env := e }

/-- Taking the agent from the schedule changes the surroundings only. -/
theorem exists_afterMove_eq (s : State) : ∃ e : Env, afterMove s = { s with env := e } := by
  unfold afterMove
  split
  · exact ⟨_, rfl⟩
  · exact ⟨_, rfl⟩

/-- A completion neither reads nor writes the surroundings. -/
theorem complete_withEnv (o : CmdOutcome) (s : State) (e : Env) :
    complete o { s with env := e } = { complete o s with env := e } := by
  cases o <;> rfl

/-- An accept does the assignments of R109 and leaves at least one engine step. -/
theorem exists_accept_eq (w : Word) (s : State) :
    ∃ (k : Nat) (e : Env), 1 ≤ k ∧ accept w s = { acceptRegs w s with work := k, env := e } := by
  unfold accept
  rcases startWork_cases (acceptRegs w s) with ⟨k, ks, -, h⟩ | ⟨-, k, h⟩
  · exact ⟨k + 1, _, by omega, h⟩
  · exact ⟨k + 1, _, by omega, h⟩

/-- The effect of a host step that performs a port write, whatever becomes of the surroundings before (`e`) and
after (`e'`). -/
theorem stepEffect_write {s : State} {off : Offset} {v : Word} (e e' : Env)
    (ha : stepAccess s = some (.write off v)) :
    StepEffect s { busWrite off v { s with env := e } with env := e' } := by
  have hw {r : Reg} (hr : regAt off = some r) : StepWrites s r v := ⟨off, ha, hr⟩
  rcases busWrite_cases off v { s with env := e } with
    ⟨h, -⟩ | ⟨hr, h⟩ | ⟨hr, h⟩ | ⟨hr, h⟩ | ⟨hr, h⟩ | ⟨hr, hv, h⟩ | ⟨hr, hv, h⟩ | ⟨hr, hp, h⟩ | ⟨hr, hp, h⟩ <;>
    rw [h]
  · exact .quiet _
  · exact .writesOpa v _ (hw hr)
  · exact .writesOpb v _ (hw hr)
  · exact .writesOpm v _ (hw hr)
  · exact .writesStatus v _ (hw hr)
  · exact .writesCtrl v _ (hw hr) hv
  · exact .resets _ (.inr ⟨v, hw hr, hv⟩)
  · obtain ⟨k, _, hk, heq⟩ := exists_accept_eq v { s with env := e }
    rw [heq]
    exact .accepts v k _ hp (hw hr) hk
  · exact .overruns v _ hp (hw hr)

/-- Every step of every agent has one of these effects. -/
theorem stepEffect_of_step {s t : State} (h : step s = .next t) : StepEffect s t := by
  obtain ⟨e, he⟩ := exists_afterMove_eq s
  rcases step_cases h with ⟨hm, rfl⟩ | ⟨-, -, rfl⟩ | ⟨hm, hp, hw, rfl⟩ | ⟨hc, rfl⟩ | ⟨-, -, rfl⟩ |
    ⟨op, rest, a, -, -, -, ha, rfl⟩ <;> rw [he]
  · exact .resets e (.inl hm)
  · exact .quiet e
  · exact .advances e hm hp hw
  · rw [complete_withEnv]
    exact .completes e hc
  · exact .quiet e
  · cases a with
    | read off => exact .quiet _
    | write off v => exact stepEffect_write e _ ha

end Sys2Proof.Machine
end

section
/-! Proofs for 10_state.md (R20-R35), part 2: the lifecycle invariant (R26, R65, R109-R115, R211). -/

namespace Sys2Proof.Machine

/-- The invariant says nothing of IE, OVR, the operand registers and the surroundings. -/
theorem inv_with_iff (s : State) (ie ovr : Bool) (a b m : Word) (e : Env) :
    State.Inv { s with ctrlIe := ie, statusOvr := ovr, opa := a, opb := b, opm := m, env := e } ↔ s.Inv :=
  Iff.rfl

/-- A reset engine is idle and shows neither DONE nor an error. -/
theorem inv_engineReset (s : State) : (engineReset s).Inv :=
  ⟨nofun, fun h => h.elim nofun (absurd rfl)⟩

/-- An accepted command is running, with DONE and ERRCODE clear (R109). -/
theorem inv_acceptRegs (w : Word) (s : State) {k : Nat} (hk : 1 ≤ k) :
    State.Inv { acceptRegs w s with work := k } :=
  ⟨fun _ => ⟨rfl, rfl, rfl, hk⟩, fun h => h.elim nofun (absurd rfl)⟩

/-- A completion leaves the engine idle, showing the outcome of the latched words (R111, R112). -/
theorem inv_complete {s : State} (hcmd : s.lat.cmd = s.cmd) : (complete (latchOutcome s.lat) s).Inv := by
  refine ⟨fun hp => ?_, fun _ => ⟨?_, ?_, ?_⟩⟩
  · rw [complete_phase] at hp
    cases hp
  · exact complete_phase ..
  · rw [complete_lat, complete_cmd, hcmd]
  · rw [complete_lat]
    exact shows_complete _ s

/-- An engine step before the last one leaves a step to take (R110). -/
theorem inv_advance {s : State} (hi : s.Inv) (hp : s.phase = .busy) (hw : 2 ≤ s.work) :
    State.Inv { s with work := s.work - 1 } := by
  obtain ⟨hbusy, hshown⟩ := hi
  obtain ⟨hdone, herr, hcmd, -⟩ := hbusy hp
  exact ⟨fun _ => ⟨hdone, herr, hcmd, Nat.le_sub_one_of_lt hw⟩, hshown⟩

/-- A STATUS write can only clear DONE: an acknowledged error still shows its outcome (R103, R210). -/
theorem inv_writeStatus {s : State} (hi : s.Inv) (v : Word) : (writeStatus v s).Inv := by
  obtain ⟨hbusy, hshown⟩ := hi
  refine ⟨fun hp => ?_, fun h => ?_⟩
  · obtain ⟨hdone, hrest⟩ := hbusy hp
    exact ⟨by rw [writeStatus_statusDone, hdone, Bool.false_and], hrest⟩
  · have h' : s.statusDone = true ∨ s.statusErrcode ≠ none := h.imp_left (Bool.and_elim_left ·)
    exact hshown h'

/-- Settles O5: each effect a step can have keeps the invariant. -/
theorem stepKeepsInv : Obligations.StepKeepsInv := by
  unfold Obligations.StepKeepsInv
  intro s t hi h
  cases stepEffect_of_step h with
  | quiet => exact (inv_with_iff s ..).2 hi
  | resets => exact (inv_with_iff (engineReset s) ..).2 (inv_engineReset s)
  | advances _ _ hp hw => exact (inv_with_iff { s with work := s.work - 1 } ..).2 (inv_advance hi hp hw)
  | completes _ hc =>
    obtain ⟨-, hp, -⟩ := hc
    obtain ⟨-, -, hcmd, -⟩ := hi.1 hp
    exact (inv_with_iff (complete (latchOutcome s.lat) s) ..).2 (inv_complete hcmd)
  | accepts w k _ _ _ hk => exact (inv_with_iff { acceptRegs w s with work := k } ..).2 (inv_acceptRegs w s hk)
  | overruns => exact (inv_with_iff s ..).2 hi
  | writesStatus v => exact (inv_with_iff (writeStatus v s) ..).2 (inv_writeStatus hi v)
  | writesCtrl => exact (inv_with_iff s ..).2 hi
  | writesOpa => exact (inv_with_iff s ..).2 hi
  | writesOpb => exact (inv_with_iff s ..).2 hi
  | writesOpm => exact (inv_with_iff s ..).2 hi

/-- Settles O4: the reset state is what a reset makes of itself. -/
theorem invHoldsAtReset : Obligations.InvHoldsAtReset := inv_engineReset State.reset

end Sys2Proof.Machine
end

section
/-! Proofs for 10_state.md (R20-R35), part 3: the flags, the registers and `irq` over every step of the machine
(R23-R34, R206, R240), and what a running command keeps (R28, R73, R113, R237). -/

namespace Sys2Proof.Machine

/-! ### BOOL after a completion -/

theorem outcomeModpow_ne_ok_true (l : Latch) (res aux : Int) : outcomeModpow l ≠ .ok res aux true := by
  unfold outcomeModpow
  split <;> simp

theorem outcomeModmul_ne_ok_true (l : Latch) (res aux : Int) : outcomeModmul l ≠ .ok res aux true := by
  unfold outcomeModmul
  split <;> simp

theorem outcomeModinv_ne_ok_true (l : Latch) (res aux : Int) : outcomeModinv l ≠ .ok res aux true := by
  unfold outcomeModinv
  split
  · simp
  · dsimp only
    split <;> simp

/-- The latched word is a command that answers a truth value in BOOL (R34). -/
def LatchHoldsPredicate (l : Latch) : Prop :=
  ∃ i ∈ [Instr.isprime, .safeprimeQ, .safeprimeP, .genfindSub, .genfindRef], decode l.cmd = some i

/-- The three arithmetic commands and an illegal word never set BOOL. -/
theorem latchHoldsPredicate_of_outcome {l : Latch} {res aux : Int} (h : latchOutcome l = .ok res aux true) :
    LatchHoldsPredicate l := by
  unfold latchOutcome at h
  cases hd : decode l.cmd with
  | none => simp [hd] at h
  | some i =>
    rw [hd] at h
    refine ⟨i, ?_, hd⟩
    cases i
    case modpow => exact absurd h (outcomeModpow_ne_ok_true l res aux)
    case modinv => exact absurd h (outcomeModinv_ne_ok_true l res aux)
    case modmul => exact absurd h (outcomeModmul_ne_ok_true l res aux)
    all_goals decide

/-- BOOL after a completion is the outcome's. -/
theorem complete_statusBool_eq_true {o : CmdOutcome} {s : State} (h : (complete o s).statusBool = true) :
    ∃ res aux, o = .ok res aux true := by
  cases o with
  | ok res aux bool => exact ⟨res, aux, congrArg _ h⟩
  | err code info => cases h

/-! ### The table of R34, a row per flag -/

/-- A row of the flag table: a flag that held `x` keeps it, takes `hi` by an event that sets it, or takes `lo` by
one that clears it. -/
inductive FlagChange {α : Type} (lo hi : α) (setBy clearBy : Prop) (x : α) : α → Prop
  | keeps : FlagChange lo hi setBy clearBy x x
  | sets (h : setBy) : FlagChange lo hi setBy clearBy x hi
  | clears (h : clearBy) : FlagChange lo hi setBy clearBy x lo

theorem FlagChange.setBy_of_rises {α : Type} {lo hi x y : α} {setBy clearBy : Prop}
    (h : FlagChange lo hi setBy clearBy x y) (hne : lo ≠ hi) (hx : x = lo) (hy : y = hi) : setBy := by
  cases h with
  | keeps => exact absurd (hx.symm.trans hy) hne
  | sets h => exact h
  | clears => exact absurd hy hne

theorem FlagChange.clearBy_of_falls {α : Type} {lo hi x y : α} {setBy clearBy : Prop}
    (h : FlagChange lo hi setBy clearBy x y) (hne : lo ≠ hi) (hx : x = hi) (hy : y = lo) : clearBy := by
  cases h with
  | keeps => exact absurd (hy.symm.trans hx) hne
  | sets => exact absurd hy.symm hne
  | clears h => exact h

section
variable {s t : State} (h : StepEffect s t)
include h

/-- BUSY. -/
theorem phase_change :
    FlagChange .idle .busy (StepAccepts s) (StepCompletes s ∨ StepResets s) s.phase t.phase := by
  cases h with
  | resets _ hr => exact .clears (.inr hr)
  | completes _ hc =>
    rw [complete_phase]
    exact .clears (.inl hc)
  | accepts w _ _ hp hw => exact .sets ⟨hp, w, hw⟩
  | _ => exact .keeps

/-- DONE. -/
theorem statusDone_change :
    FlagChange false true (StepCompletes s)
      (StepResets s ∨ StepAccepts s ∨ ∃ v : Word, StepWrites s .status v ∧ v.getLsbD 1 = true)
      s.statusDone t.statusDone := by
  cases h with
  | resets _ hr => exact .clears (.inl hr)
  | completes _ hc =>
    rw [complete_statusDone]
    exact .sets hc
  | accepts w _ _ hp hw => exact .clears (.inr (.inl ⟨hp, w, hw⟩))
  | writesStatus v _ hw =>
    rw [writeStatus_statusDone]
    cases hv : v.getLsbD 1 with
    | false => simpa using .keeps
    | true => simpa using .clears (.inr (.inr ⟨v, hw, hv⟩))
  | _ => exact .keeps

/-- BOOL. -/
theorem statusBool_change :
    FlagChange false true (StepCompletes s ∧ LatchHoldsPredicate s.lat) (StepCompletes s ∨ StepResets s)
      s.statusBool t.statusBool := by
  cases h with
  | resets _ hr => exact .clears (.inr hr)
  | completes _ hc =>
    dsimp only
    cases hb : (complete (latchOutcome s.lat) s).statusBool with
    | false => exact .clears (.inl hc)
    | true =>
      obtain ⟨res, aux, ho⟩ := complete_statusBool_eq_true hb
      exact .sets ⟨hc, latchHoldsPredicate_of_outcome ho⟩
  | _ => exact .keeps

/-- OVR. -/
theorem statusOvr_change :
    FlagChange false true (s.phase = .busy ∧ ∃ w, StepWrites s .cmd w)
      (StepResets s ∨ ∃ v : Word, StepWrites s .status v ∧ v.getLsbD 4 = true) s.statusOvr t.statusOvr := by
  cases h with
  | resets _ hr => exact .clears (.inl hr)
  | completes =>
    rw [complete_statusOvr]
    exact .keeps
  | overruns w _ hp hw => exact .sets ⟨hp, w, hw⟩
  | writesStatus v _ hw =>
    rw [writeStatus_statusOvr]
    cases hv : v.getLsbD 4 with
    | false => simpa using .keeps
    | true => simpa using .clears (.inr ⟨v, hw, hv⟩)
  | _ => exact .keeps

/-- ERRCODE: a completion stores a code or none; an accept and a reset store none. -/
theorem statusErrcode_change :
    t.statusErrcode = s.statusErrcode ∨ StepCompletes s ∨
      ((StepAccepts s ∨ StepResets s) ∧ t.statusErrcode = none) := by
  cases h with
  | resets _ hr => exact .inr (.inr ⟨.inr hr, rfl⟩)
  | completes _ hc => exact .inr (.inl hc)
  | accepts w _ _ hp hw => exact .inr (.inr ⟨.inl ⟨hp, w, hw⟩, rfl⟩)
  | _ => exact .inl rfl

end

/-- Settles O51: the rows of the table, each flag's two columns. -/
theorem flagsChangeOnlyByTable : Obligations.FlagsChangeOnlyByTable := by
  unfold Obligations.FlagsChangeOnlyByTable
  intro s t h
  have he := stepEffect_of_step h
  have hff : false ≠ true := Bool.false_ne_true
  have herr := statusErrcode_change he
  refine ⟨(phase_change he).setBy_of_rises nofun, (phase_change he).clearBy_of_falls nofun,
    (statusDone_change he).setBy_of_rises hff, (statusDone_change he).clearBy_of_falls hff,
    (statusBool_change he).setBy_of_rises hff, (statusBool_change he).clearBy_of_falls hff,
    fun hne hsome => ?_, fun hne => ?_,
    (statusOvr_change he).setBy_of_rises hff, (statusOvr_change he).clearBy_of_falls hff⟩
  · rcases herr with heq | hc | ⟨-, hnone⟩
    · exact absurd heq hne
    · exact hc
    · exact absurd hnone hsome
  · rcases herr with heq | hc | ⟨ha | hr, -⟩
    · exact absurd heq hne
    · exact .inl hc
    · exact .inr (.inl ha)
    · exact .inr (.inr hr)

/-! ### The registers -/

section
variable {s t : State} (h : StepEffect s t)
include h

/-- RES and AUX (R29, R30). -/
theorem results_change : (t.res = s.res ∧ t.aux = s.aux) ∨ StepCompletes s ∨ StepResets s := by
  cases h with
  | resets _ hr => exact .inr (.inr hr)
  | completes _ hc => exact .inr (.inl hc)
  | _ => exact .inl ⟨rfl, rfl⟩

/-- CMD and the latched words (R26, R33). -/
theorem command_change : (t.cmd = s.cmd ∧ t.lat = s.lat) ∨ StepAccepts s ∨ StepResets s := by
  cases h with
  | resets _ hr => exact .inr (.inr hr)
  | completes => exact .inl ⟨complete_cmd .., complete_lat ..⟩
  | accepts w _ _ hp hw => exact .inr (.inl ⟨hp, w, hw⟩)
  | _ => exact .inl ⟨rfl, rfl⟩

/-- OPA (R28). -/
theorem opa_change : t.opa = s.opa ∨ StepResets s ∨ StepWrites s .opa t.opa := by
  cases h with
  | resets _ hr => exact .inr (.inl hr)
  | completes => exact .inl (complete_opa ..)
  | writesOpa _ _ hw => exact .inr (.inr hw)
  | _ => exact .inl rfl

/-- OPB (R28). -/
theorem opb_change : t.opb = s.opb ∨ StepResets s ∨ StepWrites s .opb t.opb := by
  cases h with
  | resets _ hr => exact .inr (.inl hr)
  | completes => exact .inl (complete_opb ..)
  | writesOpb _ _ hw => exact .inr (.inr hw)
  | _ => exact .inl rfl

/-- OPM (R28). -/
theorem opm_change : t.opm = s.opm ∨ StepResets s ∨ StepWrites s .opm t.opm := by
  cases h with
  | resets _ hr => exact .inr (.inl hr)
  | completes => exact .inl (complete_opm ..)
  | writesOpm _ _ hw => exact .inr (.inr hw)
  | _ => exact .inl rfl

/-- IE (R23). -/
theorem ctrlIe_change :
    t.ctrlIe = s.ctrlIe ∨ StepResets s ∨ ∃ v : Word, StepWrites s .ctrl v ∧ t.ctrlIe = v.getLsbD 0 := by
  cases h with
  | resets _ hr => exact .inr (.inl hr)
  | completes => exact .inl (complete_ctrlIe ..)
  | writesCtrl v _ hw => exact .inr (.inr ⟨v, hw, rfl⟩)
  | _ => exact .inl rfl

end

/-- Settles O52: what changes a register is its writer's event or a reset. -/
theorem registersChangeOnlyByTheirWriters : Obligations.RegistersChangeOnlyByTheirWriters := by
  unfold Obligations.RegistersChangeOnlyByTheirWriters
  intro s t h
  have he := stepEffect_of_step h
  refine ⟨fun hne => (results_change he).resolve_left ?_, fun hne => (command_change he).resolve_left ?_,
    (opa_change he).resolve_left, (opb_change he).resolve_left, (opm_change he).resolve_left,
    (ctrlIe_change he).resolve_left⟩
  · exact fun ⟨hres, haux⟩ => hne.elim (absurd hres) (absurd haux)
  · exact fun ⟨hcmd, hlat⟩ => hne.elim (absurd hcmd) (absurd hlat)

/-! ### The interrupt output -/

/-- `irq` is IE AND DONE (R32). -/
theorem irq_eq_true_iff (s : State) : irq s = true ↔ s.ctrlIe = true ∧ s.statusDone = true := by
  unfold irq
  exact Bool.and_eq_true_iff

/-- `irq` after a step: unchanged, IE after a completion, low after a reset, an accept or an acknowledge, and the
written IE AND DONE after a CTRL write (R206, R240). -/
theorem irq_change {s t : State} (h : StepEffect s t) :
    irq t = irq s ∨ (StepCompletes s ∧ irq t = s.ctrlIe) ∨
      ((StepResets s ∨ StepAccepts s ∨ ∃ v : Word, StepWrites s .status v ∧ v.getLsbD 1 = true) ∧
        irq t = false) ∨
      ∃ v : Word, StepWrites s .ctrl v ∧ v.getLsbD 1 = false ∧ irq t = (v.getLsbD 0 && s.statusDone) := by
  cases h with
  | resets _ hr => exact .inr (.inr (.inl ⟨.inl hr, rfl⟩))
  | completes _ hc => exact .inr (.inl ⟨hc, by simp [irq]⟩)
  | accepts w _ _ hp hw => exact .inr (.inr (.inl ⟨.inr (.inl ⟨hp, w, hw⟩), by simp [irq]⟩))
  | writesStatus v _ hw =>
    cases hv : v.getLsbD 1 with
    | false =>
      left
      simp only [irq, writeStatus_ctrlIe, writeStatus_statusDone, hv, Bool.not_false, Bool.and_true]
    | true =>
      refine .inr (.inr (.inl ⟨.inr (.inr ⟨v, hw, hv⟩), ?_⟩))
      simp only [irq, writeStatus_statusDone, hv, Bool.not_true, Bool.and_false]
  | writesCtrl v _ hw hv => exact .inr (.inr (.inr ⟨v, hw, hv, rfl⟩))
  | _ => exact .inl rfl

/-- Settles O53: each event that changes `irq` moves it one way, but a CTRL write, which the written IE decides. -/
theorem irqEdges : Obligations.IrqEdges := by
  unfold Obligations.IrqEdges
  intro s t h
  refine ⟨irq_eq_true_iff t, fun hs ht => ?_, fun hs ht => ?_⟩ <;>
    rcases irq_change (stepEffect_of_step h) with heq | ⟨hc, heq⟩ | ⟨hev, heq⟩ | ⟨v, hw, hv, heq⟩
  · rw [heq, hs] at ht
    cases ht
  · exact .inl ⟨hc, heq.symm.trans ht⟩
  · rw [heq] at ht
    cases ht
  · obtain ⟨h0, hdone⟩ := Bool.and_eq_true_iff.1 (heq.symm.trans ht)
    exact .inr ⟨hdone, v, hw, h0, hv⟩
  · rw [heq, hs] at ht
    cases ht
  · obtain ⟨hie, -⟩ := (irq_eq_true_iff s).1 hs
    rw [heq, hie] at ht
    cases ht
  · exact hev.imp_right (·.imp_right .inl)
  · obtain ⟨-, hdone⟩ := (irq_eq_true_iff s).1 hs
    rw [heq, hdone, Bool.and_true] at ht
    exact .inr (.inr (.inr ⟨v, hw, ht⟩))

/-! ### Host steps and the running command -/

/-- Settles O54: the effects a host step other than a reset can have on a busy engine change neither the running
command nor the results. -/
theorem hostStepsLeaveRunningCommand : Obligations.HostStepsLeaveRunningCommand := by
  unfold Obligations.HostStepsLeaveRunningCommand
  intro s t h hp hhost hnr
  cases stepEffect_of_step h with
  | resets _ hr => exact absurd hr hnr
  | advances _ hm => exact absurd (hm.symm.trans hhost) nofun
  | completes _ hc => exact absurd (hc.1.symm.trans hhost) nofun
  | accepts _ _ _ hidle => exact absurd (hidle.symm.trans hp) nofun
  | _ => exact ⟨hp, rfl, rfl, rfl, rfl, rfl, rfl, rfl⟩

end Sys2Proof.Machine
end

section
/-! Proofs for 10_state.md (R20-R35), part 4: what a STATUS read shows (R24, R25, R200) and which transactions a
host line stands for (R88, R89). -/

namespace Sys2Proof.Machine

/-! ### The word a STATUS read returns -/

/-- The bits of the ERRCODE field, by the codes of R200. -/
theorem errcodeField_getLsbD (s : State) (k : Nat) :
    (errcodeField s).getLsbD k =
      if k = 0 then
        decide (s.statusErrcode = some .illegalCommand ∨ s.statusErrcode = some .nonInvertibleInput)
      else if k = 1 then
        decide (s.statusErrcode = some .preconditionViolation ∨ s.statusErrcode = some .nonInvertibleInput)
      else if k = 2 then decide (s.statusErrcode = some .domainConstructionFailure)
      else false := by
  by_cases hk : k < 4
  · unfold errcodeField
    revert k
    rcases s.statusErrcode with _ | e
    · decide
    · cases e <;> decide
  · rw [BitVec.getLsbD_of_ge _ _ (by omega), if_neg (by omega), if_neg (by omega), if_neg (by omega)]

/-- ERR shows that an error is stored (R25): no error has code 0. -/
theorem errBit_eq (s : State) : errBit s = decide (s.statusErrcode ≠ none) := by
  unfold errBit errcodeField
  rcases s.statusErrcode with _ | e
  · decide
  · cases e <;> decide

/-- A one-bit field below the others. -/
theorem getLsbD_append_ofBool {n : Nat} (x : BitVec n) (b : Bool) (i : Nat) :
    (x ++ BitVec.ofBool b).getLsbD i = if i = 0 then b else x.getLsbD (i - 1) := by
  rw [BitVec.getLsbD_append]
  cases i <;> simp

/-- Zeros above a field. -/
theorem getLsbD_zero_append {n : Nat} (m : Nat) (x : BitVec n) (i : Nat) :
    (0#m ++ x).getLsbD i = x.getLsbD i := by
  rw [BitVec.getLsbD_append, BitVec.getLsbD_zero]
  split
  · rfl
  · exact (BitVec.getLsbD_of_ge x i (by omega)).symm

/-- The fields of the word a STATUS read returns, by bit position (R24). -/
theorem busRead_status_getLsbD (s : State) (i : Nat) :
    (busRead 0x08#6 s).getLsbD i =
      if i = 0 then busyBit s
      else if i = 1 then s.statusDone
      else if i = 2 then errBit s
      else if i = 3 then s.statusBool
      else if i = 4 then s.statusOvr
      else if i < 8 then false
      else (errcodeField s).getLsbD (i - 8) := by
  have hread : busRead 0x08#6 s = statusWord s := rfl
  rw [hread]
  unfold statusWord
  iterate 5 rw [getLsbD_append_ofBool]
  rw [BitVec.getLsbD_append, getLsbD_zero_append, BitVec.getLsbD_zero]
  rcases i with _ | _ | _ | _ | _ | j
  · rfl
  · rfl
  · rfl
  · rfl
  · rfl
  · by_cases hj : j < 3
    · simp [hj]
    · simp [hj, not_lt.1 hj]

/-- Settles O7: both sides are the same table of literal bit positions. -/
theorem statusBitsAsTabulated : Obligations.StatusBitsAsTabulated := by
  unfold Obligations.StatusBitsAsTabulated
  intro s i hi
  have hbusy : busyBit s = decide (s.phase = .busy) := rfl
  rw [busRead_status_getLsbD, errBit_eq, errcodeField_getLsbD, hbusy]
  interval_cases i <;> rfl

/-- Bits 11:8 of a STATUS read are the field ERRCODE. -/
theorem busRead_status_errcode (s : State) : (busRead 0x08#6 s).extractLsb' 8 4 = errcodeField s := by
  ext i hi
  rw [BitVec.getElem_extractLsb', busRead_status_getLsbD, Nat.add_sub_cancel_left,
    BitVec.getLsbD_eq_getElem hi]
  iterate 6 rw [if_neg (by omega)]

/-- Settles O8: bit 2 is ERR, which is the ERRCODE field's being non-zero. -/
theorem errBitFollowsErrcode : Obligations.ErrBitFollowsErrcode := by
  unfold Obligations.ErrBitFollowsErrcode
  intro s
  rw [busRead_status_errcode, busRead_status_getLsbD]
  exact bne_iff_ne

/-! ### Host lines -/

/-- Settles O22: every entry is a host line's definition at one register, mnemonic or choice of operands. -/
theorem notationExpands : Obligations.NotationExpands := by
  unfold Obligations.NotationExpands
  refine ⟨fun v => ?writes, ?reads, ?commands, rfl, rfl, rfl, fun i x y m => ?calls⟩
  case writes => exact ⟨rfl, rfl, rfl, rfl, rfl, rfl, rfl, rfl, rfl⟩
  case reads => exact ⟨rfl, rfl, rfl, rfl, rfl, rfl, rfl, rfl, rfl⟩
  case commands => exact ⟨rfl, rfl, rfl, rfl, rfl, rfl, rfl, rfl⟩
  case calls => exact ⟨rfl, rfl, rfl, rfl, rfl, rfl, rfl, rfl⟩

end Sys2Proof.Machine
end

section
/-! Proofs for 10_state.md (R20-R35), part 5: the hidden state of R33. A running command takes its `work` engine
steps (R110), and while the engine is idle `lat` and `work` are not observable. -/

namespace Sys2Proof.Machine

/-! ### The engine steps of a running command -/

theorem run_succ_of_step (M : Host.Core) {s t : M.State} (k : Nat) (h : M.step s = .next t) :
    M.run (k + 1) s = M.run k t := by
  rw [Host.Core.run, h]

/-- A run is prolonged by one step at its end. -/
theorem run_succ_of_run (M : Host.Core) {k : Nat} {s t : M.State} (h : M.run k s = .next t) :
    M.run (k + 1) s = M.step t := by
  induction k generalizing s with
  | zero =>
    obtain rfl : s = t := Host.Outcome.next.inj h
    rw [Host.Core.run]
    cases M.step s <;> rfl
  | succ k ih =>
    cases hs : M.step s with
    | next u =>
      rw [run_succ_of_step M k hs] at h
      rw [run_succ_of_step M (k + 1) hs, ih h]
    | fault r =>
      rw [Host.Core.run, hs] at h
      cases h
    | refused r =>
      rw [Host.Core.run, hs] at h
      cases h

/-- A state with the engine steps still to take and the moves still to come replaced. -/
def withWork (k : Nat) (ms : List Move) (s : State) : State :=
  { s with work := k, env := { s.env with sched := ms } }

theorem step_engine_advances {s : State} {ms : List Move} (hp : s.phase = .busy) (hw : 2 ≤ s.work)
    (hs : s.env.sched = .engine :: ms) : step s = .next (withWork (s.work - 1) ms s) := by
  have hw' : ¬ s.work ≤ 1 := by omega
  rw [step_sched hs]
  unfold moveStep engineStep
  simp only [hp, hw', if_false, withWork]

theorem step_engine_completes {s : State} {ms : List Move} (hp : s.phase = .busy) (hw : s.work ≤ 1)
    (hs : s.env.sched = .engine :: ms) :
    step s = .next (complete (latchOutcome s.lat) (withWork s.work ms s)) := by
  rw [step_sched hs]
  unfold moveStep engineStep
  simp only [hp, hw, if_true, finishCommand_eq, withWork]

/-- Before its last engine step a command is still running; each step has taken one off `work`. -/
theorem run_engine_advances {s : State} {k : Nat} {ms : List Move} (hp : s.phase = .busy) (hk : k < s.work)
    (hs : s.env.sched = List.replicate k .engine ++ ms) :
    Host.Core.run Sys2Proof.core k s = .next (withWork (s.work - k) ms s) := by
  induction k generalizing s with
  | zero =>
    have hsame : withWork s.work s.env.sched s = s := rfl
    rw [List.replicate_zero, List.nil_append] at hs
    rw [← hs, Nat.sub_zero, hsame]
    rfl
  | succ k ih =>
    have hstep := step_engine_advances hp (by omega) hs
    have hrun := ih (s := withWork (s.work - 1) (List.replicate k .engine ++ ms) s) hp
      (show k < s.work - 1 by omega) rfl
    have hwork : s.work - (k + 1) = s.work - 1 - k := by omega
    rw [hwork]
    exact (run_succ_of_step core k hstep).trans hrun

/-- Settles O55: all steps but one count `work` down to 1, and the last one completes the command. -/
theorem exactlyWorkEngineSteps : Obligations.ExactlyWorkEngineSteps := by
  unfold Obligations.ExactlyWorkEngineSteps
  intro s ms hp hw hs
  constructor
  · intro k hk
    refine ⟨_, run_engine_advances (ms := List.replicate (s.work - k) .engine ++ ms) hp hk ?_, hp⟩
    rw [hs, ← List.append_assoc, List.replicate_append_replicate, Nat.add_sub_cancel' hk.le]
  · obtain ⟨k, hk⟩ : ∃ k, s.work = k + 1 := ⟨s.work - 1, by omega⟩
    have hrun : Host.Core.run core k s = .next (withWork (s.work - k) (.engine :: ms) s) := by
      refine run_engine_advances hp (by omega) ?_
      rw [hs, hk, List.replicate_succ', List.append_assoc, List.singleton_append]
    have hlast := step_engine_completes (s := withWork (s.work - k) (.engine :: ms) s) hp
      (show s.work - k ≤ 1 by omega) rfl
    rw [hk]
    exact ⟨_, (run_succ_of_run core hrun).trans hlast, complete_phase .., complete_statusDone ..,
      shows_complete ..⟩

/-! ### `lat` and `work` while idle -/

/-- A state with other values in `lat` and `work`. -/
def withHidden (l : Latch) (k : Nat) (s : State) : State := { s with lat := l, work := k }

/-- No read depends on `lat` or `work`. -/
theorem busRead_withHidden (off : Offset) (l : Latch) (k : Nat) (s : State) :
    busRead off (withHidden l k s) = busRead off s := by
  unfold busRead
  rcases regAt off with _ | r
  · rfl
  · cases r <;> rfl

theorem afterMove_withHidden (l : Latch) (k : Nat) (s : State) :
    afterMove (withHidden l k s) = withHidden l k (afterMove s) := by
  have hsched : (withHidden l k s).env.sched = s.env.sched := rfl
  unfold afterMove
  rw [hsched]
  cases s.env.sched <;> rfl

theorem busAfter_withHidden (op : HostOp) (rest : List HostOp) (l : Latch) (k : Nat) (s : State) :
    busAfter op rest (withHidden l k s) = busAfter op rest s := by
  cases op <;> rfl

/-- `t'` is `t` but for `lat` and `work`, and exactly `t` when `t` is busy. -/
def SameButIdleHidden (t t' : State) : Prop :=
  ∃ l k, t' = withHidden l k t ∧ (t.phase = .busy → l = t.lat ∧ k = t.work)

theorem sameButIdleHidden_refl (t : State) : SameButIdleHidden t t := ⟨t.lat, t.work, rfl, fun _ => ⟨rfl, rfl⟩⟩

theorem sameButIdleHidden_of_idle {t : State} (l : Latch) (k : Nat) (hp : t.phase = .idle) :
    SameButIdleHidden t (withHidden l k t) :=
  ⟨l, k, rfl, fun hb => absurd (hp.symm.trans hb) nofun⟩

theorem sameButIdleHidden_setBus {t t' : State} (ops : List HostOp) (h : SameButIdleHidden t t') :
    SameButIdleHidden (setBus ops t) (setBus ops t') := by
  obtain ⟨l, k, rfl, hbusy⟩ := h
  exact ⟨l, k, rfl, hbusy⟩

/-- An accept overwrites both (R109). -/
theorem accept_withHidden (w : Word) (l : Latch) (k : Nat) (s : State) :
    accept w (withHidden l k s) = accept w s := by
  have hhidden : (acceptRegs w (withHidden l k s)).env.latencies = s.env.latencies := rfl
  have hplain : (acceptRegs w s).env.latencies = s.env.latencies := rfl
  unfold accept startWork
  rw [hhidden, hplain]
  cases s.env.latencies <;> rfl

theorem busWrite_withHidden {s : State} (hp : s.phase = .idle) (off : Offset) (v : Word) (l : Latch) (k : Nat) :
    SameButIdleHidden (busWrite off v s) (busWrite off v (withHidden l k s)) := by
  unfold busWrite
  rcases regAt off with _ | r
  · exact sameButIdleHidden_of_idle l k hp
  · cases r with
    | ctrl =>
      dsimp only [writeCtrl]
      split
      · exact sameButIdleHidden_refl _
      · exact sameButIdleHidden_of_idle (t := { s with ctrlIe := v.getLsbD 0 }) l k hp
    | cmd =>
      have h : writeCmd v (withHidden l k s) = writeCmd v s := by
        have hp' : (withHidden l k s).phase = .idle := hp
        simp only [writeCmd, hp, hp']
        exact accept_withHidden ..
      dsimp only
      rw [h]
      exact sameButIdleHidden_refl _
    | status => exact sameButIdleHidden_of_idle (t := writeStatus v s) l k hp
    | opa => exact sameButIdleHidden_of_idle (t := { s with opa := v }) l k hp
    | opb => exact sameButIdleHidden_of_idle (t := { s with opb := v }) l k hp
    | opm => exact sameButIdleHidden_of_idle (t := { s with opm := v }) l k hp
    | id | res | aux => exact sameButIdleHidden_of_idle l k hp

theorem busAccess_withHidden {s : State} (hp : s.phase = .idle) (a : BusAccess) (l : Latch) (k : Nat) :
    SameButIdleHidden (busAccess a s) (busAccess a (withHidden l k s)) := by
  cases a with
  | read off =>
    unfold busAccess
    dsimp only
    rw [busRead_withHidden]
    exact sameButIdleHidden_of_idle (t := reply (busRead off s) s) l k hp
  | write off v => exact busWrite_withHidden hp off v l k

/-- Two outcomes of a step that differ in `lat` and `work` at most, and not at all when the engine is busy. -/
inductive SameOutcome : Out → Out → Prop
  | next {t t' : State} (h : SameButIdleHidden t t') : SameOutcome (.next t) (.next t')
  | refused (r : Refusal) : SameOutcome (.refused r) (.refused r)

theorem SameOutcome.of_next {t : State} {o : Out} (h : SameOutcome (.next t) o) :
    ∃ t', o = .next t' ∧ SameButIdleHidden t t' := by
  cases h with
  | next h => exact ⟨_, rfl, h⟩

theorem SameOutcome.of_refused {r : Refusal} {o : Out} (h : SameOutcome (.refused r) o) : o = .refused r := by
  cases h
  rfl

theorem hostStep_withHidden {s : State} (hp : s.phase = .idle) (l : Latch) (k : Nat) :
    SameOutcome (hostStep s) (hostStep (withHidden l k s)) := by
  have hbus : (withHidden l k s).env.bus = s.env.bus := rfl
  unfold hostStep
  rw [hbus]
  cases s.env.bus with
  | nil => exact .next (sameButIdleHidden_of_idle l k hp)
  | cons op rest =>
    dsimp only
    cases deliver op with
    | error r => exact .refused r
    | ok a =>
      dsimp only
      rw [busAfter_withHidden]
      exact .next (sameButIdleHidden_setBus _ (busAccess_withHidden hp a l k))

/-- A step of an idle engine's machine does not depend on `lat` or `work` (R33). -/
theorem step_withHidden {s : State} (hp : s.phase = .idle) (l : Latch) (k : Nat) :
    SameOutcome (step s) (step (withHidden l k s)) := by
  have hp' : (afterMove s).phase = .idle := (afterMove_phase s).trans hp
  have hmove : currentMove (withHidden l k s) = currentMove s := rfl
  unfold step
  rw [hmove, afterMove_withHidden]
  cases currentMove s with
  | host => exact hostStep_withHidden hp' l k
  | engine =>
    have hpl : (withHidden l k (afterMove s)).phase = .idle := hp'
    simp only [moveStep, engineStep, hp', hpl]
    exact .next (sameButIdleHidden_of_idle l k hp')
  | rst => exact .next (sameButIdleHidden_refl (engineReset (afterMove s)))

/-- Settles O57: an idle engine's step gives the same outcome but for `lat` and `work`. -/
theorem latAndWorkUnobservable : Obligations.LatAndWorkUnobservable := by
  unfold Obligations.LatAndWorkUnobservable
  intro s l k
  refine ⟨fun off => busRead_withHidden off l k s, rfl, fun hp => ?_⟩
  have hstep : SameOutcome (step s) (step { s with lat := l, work := k }) := step_withHidden hp l k
  refine ⟨fun r hr => (hr ▸ hstep).of_refused, fun t ht => ?_⟩
  obtain ⟨_, heq, l', k', rfl, hbusy⟩ := (ht ▸ hstep).of_next
  exact ⟨l', k', heq, hbusy⟩

end Sys2Proof.Machine
end

section
/-! Proofs for 20_memory.md (R60-R70), part 1: a word as four little-endian byte lanes (R64), and the command
words on bytes (R82-R87). -/

namespace Sys2Proof

/-! ### The byte lanes of a word -/

/-- The word of its own four lanes. -/
theorem wordOfBytes_byteLanes (w : Word) :
    wordOfBytes (byteLane w 0) (byteLane w 1) (byteLane w 2) (byteLane w 3) = w := by
  have upper16 : byteLane w 3 ++ byteLane w 2 = w.extractLsb' 16 16 :=
    BitVec.extractLsb'_append_extractLsb'_eq_extractLsb' rfl
  have upper24 : w.extractLsb' 16 16 ++ byteLane w 1 = w.extractLsb' 8 24 :=
    BitVec.extractLsb'_append_extractLsb'_eq_extractLsb' rfl
  have whole : w.extractLsb' 8 24 ++ byteLane w 0 = w.extractLsb' 0 32 :=
    BitVec.extractLsb'_append_extractLsb'_eq_extractLsb' rfl
  unfold wordOfBytes
  rw [upper16, upper24, whole, BitVec.extractLsb'_eq_self]

/-- The lanes of a word put together from four bytes are those bytes. -/
theorem bytesOfWord_wordOfBytes (b0 b1 b2 b3 : Byte) : bytesOfWord (wordOfBytes b0 b1 b2 b3) = [b0, b1, b2, b3] := by
  have lane0 : byteLane (wordOfBytes b0 b1 b2 b3) 0 = b0 := BitVec.extractLsb'_append_eq_right
  have lane1 : byteLane (wordOfBytes b0 b1 b2 b3) 1 = b1 :=
    (BitVec.extractLsb'_append_eq_of_le (by decide)).trans BitVec.extractLsb'_append_eq_right
  have lane2 : byteLane (wordOfBytes b0 b1 b2 b3) 2 = b2 :=
    (BitVec.extractLsb'_append_eq_of_le (by decide)).trans <|
      (BitVec.extractLsb'_append_eq_of_le (by decide)).trans BitVec.extractLsb'_append_eq_right
  have lane3 : byteLane (wordOfBytes b0 b1 b2 b3) 3 = b3 :=
    (BitVec.extractLsb'_append_eq_of_le (by decide)).trans <|
      (BitVec.extractLsb'_append_eq_of_le (by decide)).trans BitVec.extractLsb'_append_eq_left
  unfold bytesOfWord
  rw [lane0, lane1, lane2, lane3]

/-- Four bytes are the lanes of some word. -/
theorem exists_eq_bytesOfWord {data : List Byte} (h : data.length = 4) : ∃ w, data = bytesOfWord w :=
  match data, h with
  | [b0, b1, b2, b3], _ => ⟨wordOfBytes b0 b1 b2 b3, (bytesOfWord_wordOfBytes b0 b1 b2 b3).symm⟩

/-! ### Command words -/

/-- A word is its fields RSVD, FN and OP in a row (R82). -/
theorem append_cmdFields (w : Word) : cmdRsvd w ++ cmdFn w ++ cmdOp w = w := by
  have upper : cmdRsvd w ++ cmdFn w = w.extractLsb' 4 28 :=
    BitVec.extractLsb'_append_extractLsb'_eq_extractLsb' rfl
  have whole : w.extractLsb' 4 28 ++ cmdOp w = w.extractLsb' 0 32 :=
    BitVec.extractLsb'_append_extractLsb'_eq_extractLsb' rfl
  rw [upper, whole, BitVec.extractLsb'_eq_self]

theorem eq_of_cmdFields_eq {w w' : Word} (hrsvd : cmdRsvd w = cmdRsvd w') (hfn : cmdFn w = cmdFn w')
    (hop : cmdOp w = cmdOp w') : w = w' := by
  rw [← append_cmdFields w, ← append_cmdFields w', hrsvd, hfn, hop]

/-- OP and FN select a command only as the fields of its own word (R84, R85). -/
theorem cmdFields_of_decodeFields {op fn : Nat} {i : Instr} (h : decodeFields op fn = .ok i) :
    op = (cmdOp (encode i)).toNat ∧ fn = (cmdFn (encode i)).toNat := by
  revert h
  -- In a branch that selects a command OP is a literal, and the branch's condition gives FN.
  fun_cases decodeFields op fn <;> intro h <;> cases h <;> exact ⟨rfl, ‹fn = _›⟩

/-- Every command is selected by the fields of its own word. -/
theorem roundTrip_statement (i : Instr) : Laws.RoundTrip.Statement i := by
  cases i with
  | modpow => exact Laws.RoundTrip.modpow
  | modinv => exact Laws.RoundTrip.modinv
  | modmul => exact Laws.RoundTrip.modmul
  | isprime => exact Laws.RoundTrip.isprime
  | safeprimeQ => exact Laws.RoundTrip.safeprimeQ
  | safeprimeP => exact Laws.RoundTrip.safeprimeP
  | genfindSub => exact Laws.RoundTrip.genfindSub
  | genfindRef => exact Laws.RoundTrip.genfindRef

theorem wellFormed_eq_true (i : Instr) : i.wellFormed = true := by
  cases i <;> rfl

/-- A word decodes to a command exactly when it is the command's word (R84, R86). -/
theorem decodeWord_eq_ok_iff {w : Word} {i : Instr} : decodeWord w = .ok i ↔ w = encode i := by
  obtain ⟨hrsvd, hfields⟩ := roundTrip_statement i (wellFormed_eq_true i)
  constructor
  · intro h
    unfold decodeWord at h
    split at h
    · next hw =>
      obtain ⟨hop, hfn⟩ := cmdFields_of_decodeFields h
      exact eq_of_cmdFields_eq (hw.trans hrsvd.symm) (BitVec.eq_of_toNat_eq hfn) (BitVec.eq_of_toNat_eq hop)
    · cases h
  · rintro rfl
    unfold decodeWord
    rw [if_pos hrsvd, hfields]

/-- A byte string decodes by its first four bytes, as the lanes of a word. -/
theorem decodeBytes_eq_ok_iff {bs rest : List Byte} {i : Instr} :
    decodeBytes bs = .ok (i, rest) ↔ ∃ w, decodeWord w = .ok i ∧ bs = bytesOfWord w ++ rest := by
  constructor
  · intro h
    unfold decodeBytes at h
    split at h
    · next b0 b1 b2 b3 tail =>
      split at h
      · next j hj =>
        cases h
        exact ⟨_, hj, by rw [bytesOfWord_wordOfBytes]; rfl⟩
      · cases h
    · cases h
  · rintro ⟨w, hw, rfl⟩
    simp only [bytesOfWord, List.cons_append, decodeBytes, wordOfBytes_byteLanes, hw, List.nil_append]

/-- Settles O28: the word whose lanes lead the byte string is the only one that decodes to the command. -/
theorem decodeBytesInvertsEncodeBytes : Obligations.DecodeBytesInvertsEncodeBytes := by
  unfold Obligations.DecodeBytesInvertsEncodeBytes
  intro bs rest i
  simp only [wellFormed_eq_true, true_and, decodeBytes_eq_ok_iff, decodeWord_eq_ok_iff, exists_eq_left, encodeBytes]

end Sys2Proof
end

section
/-! Proofs for 20_memory.md (R60-R70), part 2: which host operations are engine accesses (R61-R63), what a host
step does with one (R65, R70), and the byte lanes on the bus (R64). -/

namespace Sys2Proof.Machine

/-! ### Alignment and the window -/

theorem aligned_iff (off : Offset) : Offset.aligned off = true ↔ off.toNat % 4 = 0 := by
  unfold Offset.aligned
  rw [beq_iff_eq, ← BitVec.toNat_inj, BitVec.extractLsb'_toNat]
  rfl

theorem inWindow_iff (base addr : Nat) : inWindow base addr = true ↔ base ≤ addr ∧ addr < base + 64 := by
  unfold inWindow
  rw [Bool.and_eq_true, decide_eq_true_iff, decide_eq_true_iff]

/-- The window offset of a byte address on the host bus (R60). -/
def windowOffset (addr : Nat) : Offset := BitVec.ofNat 6 (addr - Config.engineBase)

/-- The byte address of an offset is in the window. -/
theorem inWindow_engineBase_add {k : Nat} (h : k < 64) : inWindow Config.engineBase (Config.engineBase + k) = true :=
  (inWindow_iff ..).2 (by omega)

theorem windowOffset_engineBase_add {k : Nat} (h : k < 64) : (windowOffset (Config.engineBase + k)).toNat = k := by
  unfold windowOffset
  rw [Nat.add_sub_cancel_left, BitVec.toNat_ofNat, Nat.mod_eq_of_lt h]

/-- In the window an address is aligned exactly when its offset is, the base being aligned (R63). -/
theorem windowOffset_mod_four {addr : Nat} (h : inWindow Config.engineBase addr = true) :
    (windowOffset addr).toNat % 4 = addr % 4 := by
  obtain ⟨hlo, hhi⟩ := (inWindow_iff ..).1 h
  obtain ⟨k, rfl⟩ := Nat.exists_eq_add_of_le hlo
  rw [windowOffset_engineBase_add (by omega)]
  unfold Config.engineBase
  omega

/-! ### What the bus adapter delivers -/

theorem deliverPort_of_aligned {a : BusAccess} (h : a.wellFormed = true) : deliverPort a = .ok a := if_pos h

theorem deliverPort_of_unaligned {a : BusAccess} (h : ¬ a.wellFormed = true) :
    deliverPort a = .error .unalignedAccess := if_neg h

section
variable {addr : Nat}

theorem deliver_memWrite_outside (h : ¬ inWindow Config.engineBase addr = true) (data : List Byte) :
    deliver (.memWrite addr data) = .error .outsideWindow := if_neg h

theorem deliver_memRead_outside (h : ¬ inWindow Config.engineBase addr = true) (width : Nat) :
    deliver (.memRead addr width) = .error .outsideWindow := if_neg h

/-- In the window, four bytes are written as the word whose lanes they are (R64). -/
theorem deliver_memWrite_bytesOfWord (h : inWindow Config.engineBase addr = true) (w : Word) :
    deliver (.memWrite addr (bytesOfWord w)) = deliverPort (.write (windowOffset addr) w) := by
  rw [← wordOfBytes_byteLanes w, bytesOfWord_wordOfBytes]
  exact if_pos h

theorem deliver_memWrite_not_word (h : inWindow Config.engineBase addr = true) {data : List Byte}
    (hd : data.length ≠ 4) : deliver (.memWrite addr data) = .error .notWholeWord := by
  refine (if_pos h).trans ?_
  split
  · exact absurd rfl hd
  · rfl

theorem deliver_memRead_word (h : inWindow Config.engineBase addr = true) :
    deliver (.memRead addr 4) = deliverPort (.read (windowOffset addr)) := if_pos h

theorem deliver_memRead_not_word (h : inWindow Config.engineBase addr = true) {width : Nat} (hw : width ≠ 4) :
    deliver (.memRead addr width) = .error .notWholeWord := (if_pos h).trans (if_neg hw)

end

/-! ### Host steps -/

section
variable {s : State} {op : HostOp} {ops : List HostOp} {ms : List Move}

theorem step_host_refused {r : Refusal} (hs : s.env.sched = .host :: ms) (hb : s.env.bus = op :: ops)
    (hd : deliver op = .error r) : step s = .refused r := by
  rw [step_host hs hb, hd]

theorem step_host_performs {a : BusAccess} (hs : s.env.sched = .host :: ms) (hb : s.env.bus = op :: ops)
    (hd : deliver op = .ok a) : step s = .next (withQueues (busAfter op ops s) ms (busAccess a s)) := by
  rw [step_host hs hb, hd]

/-- What a host step does depends on the transaction its operation becomes, not on the operation. -/
theorem step_setBus_congr {op' : HostOp} (hs : s.env.sched = .host :: ms) (hd : deliver op = deliver op')
    (hrest : busAfter op ops (setBus (op :: ops) s) = busAfter op' ops (setBus (op' :: ops) s)) :
    step (setBus (op :: ops) s) = step (setBus (op' :: ops) s) := by
  have hset (l : List HostOp) : setBus l s = withQueues l s.env.sched s := rfl
  rw [step_host (s := setBus (op :: ops) s) hs rfl, step_host (s := setBus (op' :: ops) s) hs rfl, hd, hrest]
  simp only [hset, busAccess_withQueues]
  rfl

end

/-- Settles O17: an operation of each of these kinds is delivered as its refusal. -/
theorem undeliverableAccessesRefused : Obligations.UndeliverableAccessesRefused := by
  unfold Obligations.UndeliverableAccessesRefused
  intro s ms ops hs
  refine ⟨fun off v hoff hb => ?port, fun addr hlo hhi => ?mem⟩
  case port =>
    have hmis : ¬ Offset.aligned off = true := mt (aligned_iff off).1 hoff
    rcases hb with hb | hb
    · exact step_host_refused hs hb (deliverPort_of_unaligned hmis)
    · exact step_host_refused hs hb (deliverPort_of_unaligned hmis)
  case mem =>
    have hin : inWindow Config.engineBase addr = true := (inWindow_iff ..).2 ⟨hlo, hhi⟩
    have hmis (h : addr % 4 ≠ 0) : ¬ Offset.aligned (windowOffset addr) = true := by
      rwa [aligned_iff, windowOffset_mod_four hin]
    constructor
    · intro data hb
      refine ⟨fun hlen => step_host_refused hs hb (deliver_memWrite_not_word hin hlen), fun hlen haddr => ?_⟩
      obtain ⟨w, rfl⟩ := exists_eq_bytesOfWord hlen
      exact step_host_refused hs hb
        ((deliver_memWrite_bytesOfWord hin w).trans (deliverPort_of_unaligned (hmis haddr)))
    · intro width hb
      refine ⟨fun hw => step_host_refused hs hb (deliver_memRead_not_word hin hw), ?_⟩
      rintro rfl haddr
      exact step_host_refused hs hb ((deliver_memRead_word hin).trans (deliverPort_of_unaligned (hmis haddr)))

/-- Settles O18: neither a write nor a read outside the window is delivered. -/
theorem outsideWindowRefused : Obligations.OutsideWindowRefused := by
  unfold Obligations.OutsideWindowRefused
  intro s ms ops addr hs haddr
  have hout : ¬ inWindow Config.engineBase addr = true := by
    rw [inWindow_iff]
    omega
  exact ⟨fun data hb => step_host_refused hs hb (deliver_memWrite_outside hout data),
    fun width hb => step_host_refused hs hb (deliver_memRead_outside hout width)⟩

/-- Settles O20: an aligned port transaction is delivered as it is. -/
theorem hostStepPerformsAccess : Obligations.HostStepPerformsAccess := by
  unfold Obligations.HostStepPerformsAccess
  intro s ms ops off hs hoff
  have hal : Offset.aligned off = true := (aligned_iff off).2 hoff
  exact ⟨fun _ hb => step_host_performs hs hb (deliverPort_of_aligned hal),
    fun hb => step_host_performs hs hb (deliverPort_of_aligned hal)⟩

/-! ### Byte lanes on the bus -/

/-- A register is found by the word index `off[5:2]` (R21, R61). -/
theorem regAt_congr {off off' : Offset} (h : off.toNat / 4 = off'.toNat / 4) : regAt off = regAt off' := by
  have hindex (o : Offset) : (o >>> 2).toNat = o.toNat / 4 := by
    rw [BitVec.toNat_ushiftRight, Nat.shiftRight_eq_div_pow]
  unfold regAt
  rw [hindex, hindex, h]

/-- Every byte offset of a word reads the word. -/
theorem busRead_congr {off off' : Offset} (h : off.toNat / 4 = off'.toNat / 4) (s : State) :
    busRead off s = busRead off' s := by
  unfold busRead
  rw [regAt_congr h]

theorem windowByte_of_inWindow {addr : Nat} (h : inWindow Config.engineBase addr = true) (s : State) :
    windowByte addr s =
      some (byteLane (busRead (windowOffset addr) s) ((addr - Config.engineBase) % 4)) := if_pos h

/-- Byte `k` of the word at `off` is its lane `k`. -/
theorem windowByte_engineBase_add {off : Offset} (hoff : off.toNat % 4 = 0) {k : Nat} (hk : k < 4) (s : State) :
    windowByte (Config.engineBase + off.toNat + k) s = some (byteLane (busRead off s) k) := by
  have hlt : off.toNat + k < 64 := by
    have := off.isLt
    omega
  have hword : busRead (windowOffset (Config.engineBase + (off.toNat + k))) s = busRead off s :=
    busRead_congr (by rw [windowOffset_engineBase_add hlt]; omega) s
  have hlane : (Config.engineBase + (off.toNat + k) - Config.engineBase) % 4 = k := by omega
  rw [Nat.add_assoc, windowByte_of_inWindow (inWindow_engineBase_add hlt), hword, hlane]

/-- Settles O19: the bus adapter delivers each access as the port transaction on its word. -/
theorem byteLanesLittleEndian : Obligations.ByteLanesLittleEndian := by
  unfold Obligations.ByteLanesLittleEndian
  intro s ms ops off hoff hs
  have hin : inWindow Config.engineBase (Config.engineBase + off.toNat) = true := inWindow_engineBase_add off.isLt
  have hport : windowOffset (Config.engineBase + off.toNat) = off :=
    BitVec.eq_of_toNat_eq (windowOffset_engineBase_add off.isLt)
  refine ⟨fun w => step_setBus_congr hs ?write rfl, step_setBus_congr hs ?read rfl,
    fun k hk => windowByte_engineBase_add hoff hk s⟩
  case write =>
    have h := deliver_memWrite_bytesOfWord hin w
    rwa [hport] at h
  case read =>
    have h := deliver_memRead_word hin
    rwa [hport] at h

end Sys2Proof.Machine
end

section
/-! Proofs for 20_memory.md (R60-R70), part 3: which writes may be repeated (R66, R67), and the one atomic step in
which a command completes (R65). -/

namespace Sys2Proof.Machine

/-- Acknowledging twice is acknowledging once (R103). -/
theorem writeStatus_idempotent (v : Word) (s : State) : writeStatus v (writeStatus v s) = writeStatus v s := by
  unfold writeStatus
  simp only [Bool.and_assoc, Bool.and_self]

/-- Neither a reset nor a write of IE does more the second time (R102, R232). -/
theorem writeCtrl_idempotent (v : Word) (s : State) : writeCtrl v (writeCtrl v s) = writeCtrl v s := by
  unfold writeCtrl
  split <;> rfl

theorem writeCmd_of_idle {s : State} (hp : s.phase = .idle) (w : Word) : writeCmd w s = accept w s := by
  unfold writeCmd
  rw [hp]

theorem writeCmd_of_busy {s : State} (hp : s.phase = .busy) (w : Word) :
    writeCmd w s = { s with statusOvr := true } := by
  unfold writeCmd
  split
  · next hidle => exact absurd (hp.symm.trans hidle) nofun
  · rfl

/-- Settles O16: after an accept the engine is busy, so a second CMD write is an overrun; the other writes store
what they stored. -/
theorem repeatedWrites : Obligations.RepeatedWrites := by
  unfold Obligations.RepeatedWrites
  intro s v w
  refine ⟨fun off hoff => ?repeated, writeCtrl_idempotent v s, fun hp => ?overrun⟩
  case repeated =>
    simp only [List.mem_cons, List.not_mem_nil, or_false] at hoff
    rcases hoff with rfl | rfl | rfl | rfl
    · exact writeStatus_idempotent v s
    · rfl
    · rfl
    · rfl
  case overrun =>
    have haccept : busWrite 0x0C#6 v s = accept v s := writeCmd_of_idle hp v
    rw [haccept]
    exact writeCmd_of_busy (accept_phase v s) w

/-- Settles O30: every arm of `exec` is a completion. -/
theorem everyCommandCompletesWithFrame : Obligations.EveryCommandCompletesWithFrame := by
  unfold Obligations.EveryCommandCompletesWithFrame
  intro i s
  rw [exec_eq_complete, complete_eq_completedWith]
  exact ⟨_, _, _, _, rfl⟩

end Sys2Proof.Machine
end

section
/-! Proofs for 30_encoding.md (R80-R89): the legal and the illegal command words (R82-R86), the registers a command
does not read (R83), and `WAIT` (R89). -/

namespace Sys2Proof

/-! ### Legal and illegal words -/

theorem decode_eq_some_iff_decodeWord {w : Word} {i : Instr} : decode w = some i ↔ decodeWord w = .ok i := by
  unfold decode
  cases decodeWord w with
  | ok j => rw [Option.some.injEq, Except.ok.injEq]
  | error r => exact ⟨nofun, nofun⟩

/-- A command is decoded from its own word and from no other (R84, R86). -/
theorem decode_eq_some_iff {w : Word} {i : Instr} : decode w = some i ↔ w = encode i :=
  decode_eq_some_iff_decodeWord.trans decodeWord_eq_ok_iff

/-- A word with one of the defects that R85 lists; an `abbrev`, so that it is decided at each word of R84. -/
abbrev IllegalFields (w : Word) : Prop :=
  cmdRsvd w ≠ 0#24 ∨ (cmdOp w).toNat = 0 ∨ 7 ≤ (cmdOp w).toNat ∨
    (1 ≤ (cmdOp w).toNat ∧ (cmdOp w).toNat ≤ 4 ∧ (cmdFn w).toNat ≠ 0) ∨
    (((cmdOp w).toNat = 5 ∨ (cmdOp w).toNat = 6) ∧ 1 < (cmdFn w).toNat)

/-- No word of R84 has a defect. -/
theorem not_illegalFields_encode (i : Instr) : ¬ IllegalFields (encode i) := by
  cases i <;> decide

theorem decode_eq_none_of_illegalFields {w : Word} (h : IllegalFields w) : decode w = none := by
  refine Option.eq_none_iff_forall_ne_some.2 fun i hi => ?_
  obtain rfl := decode_eq_some_iff.1 hi
  exact not_illegalFields_encode i h

/-- Settles O27: column `word` of R84 is `encode`. -/
theorem everyWordIsTableWordOrIllegal : Obligations.EveryWordIsTableWordOrIllegal := by
  unfold Obligations.EveryWordIsTableWordOrIllegal
  intro w
  exact ⟨decode_eq_some_iff, decode_eq_some_iff, decode_eq_some_iff, decode_eq_some_iff, decode_eq_some_iff,
    decode_eq_some_iff, decode_eq_some_iff, decode_eq_some_iff⟩

/-- Settles O29: four of the words are words of R84, the last two have a reserved FN and a reserved OP. -/
theorem writtenWordsDecode : Obligations.WrittenWordsDecode := by
  unfold Obligations.WrittenWordsDecode
  exact ⟨decode_eq_some_iff.2 rfl, decode_eq_some_iff.2 rfl, decode_eq_some_iff.2 rfl, decode_eq_some_iff.2 rfl,
    decode_eq_none_of_illegalFields (by decide), decode_eq_none_of_illegalFields (by decide)⟩

end Sys2Proof

namespace Sys2Proof.Machine

theorem latchOutcome_of_illegal {l : Latch} (h : decode l.cmd = none) : latchOutcome l = .err .illegalCommand 0 := by
  unfold latchOutcome
  rw [h]

/-- Settles O26: a word with a defect is no command's word, so it decodes to ILLEGAL. -/
theorem illegalWordCompletes : Obligations.IllegalWordCompletes := by
  unfold Obligations.IllegalWordCompletes
  intro s ms w op fn hp hw hs hdefect
  have hnone : decode w = none := decode_eq_none_of_illegalFields hdefect
  rw [step_engine_completes hp hw hs, latchOutcome_of_illegal hnone]
  rfl

/-! ### The registers a command does not read -/

/-- What a completion stores depends on its outcome alone. -/
theorem exists_complete_eq_completedWith (o : CmdOutcome) :
    ∃ res aux bool err, ∀ s, complete o s = completedWith s res aux bool err := by
  cases o with
  | ok res aux bool => exact ⟨_, _, _, _, fun _ => rfl⟩
  | err code info => exact ⟨_, _, _, _, fun _ => rfl⟩

/-- A command that has the same outcome on two latches completes alike. -/
theorem exec_completes_alike {i : Instr} {s t : State} (h : commandOutcome i s.lat = commandOutcome i t.lat) :
    ∃ res aux bool err, exec i s = .next (completedWith s res aux bool err) ∧
      exec i t = .next (completedWith t res aux bool err) := by
  obtain ⟨res, aux, bool, err, hcomplete⟩ := exists_complete_eq_completedWith (commandOutcome i s.lat)
  refine ⟨res, aux, bool, err, ?_, ?_⟩
  · rw [exec_eq_complete, hcomplete]
  · rw [exec_eq_complete, ← h, hcomplete]

/-- MODINV reads A and the modulus only (R83). -/
theorem commandOutcome_modinv_opb (l : Latch) (x : Word) :
    commandOutcome .modinv { l with opb := x } = commandOutcome .modinv l := rfl

/-- The commands of 41_primality.md and 43_domain_parameters.md read A only (R83). -/
theorem commandOutcome_opb_opm {i : Instr}
    (hi : i ∈ [Instr.isprime, .safeprimeQ, .safeprimeP, .genfindSub, .genfindRef]) (l : Latch) (x y : Word) :
    commandOutcome i { l with opb := x, opm := y } = commandOutcome i l := by
  simp only [List.mem_cons, List.not_mem_nil, or_false] at hi
  rcases hi with rfl | rfl | rfl | rfl | rfl <;> rfl

/-- Settles O32: the outcome of each of these commands is the same whatever the unread operands hold. -/
theorem unreadOperandsHaveNoEffect : Obligations.UnreadOperandsHaveNoEffect := by
  unfold Obligations.UnreadOperandsHaveNoEffect
  intro s x y
  exact ⟨exec_completes_alike (commandOutcome_modinv_opb s.lat x).symm,
    fun i hi => exec_completes_alike (commandOutcome_opb_opm hi s.lat x y).symm⟩

/-! ### `WAIT` -/

/-- `WAIT` stays at the head of the queue until STATUS shows DONE. -/
theorem busAfter_wait (ops : List HostOp) (s : State) :
    busAfter .wait ops s = if s.statusDone then ops else .wait :: ops := by
  rw [← busRead_status_done]
  rfl

/-- Settles O21: `WAIT` is delivered as a read of STATUS. -/
theorem waitPollsUntilDone : Obligations.WaitPollsUntilDone := by
  unfold Obligations.WaitPollsUntilDone
  intro s ms ops hs hb
  rw [step_host_performs (a := .read statusOffset) hs hb rfl, busAfter_wait]
  rfl

end Sys2Proof.Machine
end

section
/-! Proofs for 40_host_access.md (R100-R118), part 1: what a read of the register window returns and what a write to
it does (R100-R109, R113). -/

namespace Sys2Proof.Machine

/-! ### Reads -/

/-- The word a STATUS read returns, its fields that are not stored written out (R24, R25, R107). -/
theorem statusWord_eq {s : State} {code : BitVec 4} (h : errcodeField s = code) :
    statusWord s =
      0#20 ++ code ++ 0#3 ++ BitVec.ofBool s.statusOvr ++ BitVec.ofBool s.statusBool
        ++ BitVec.ofBool (code != 0#4) ++ BitVec.ofBool s.statusDone ++ BitVec.ofBool (s.phase == .busy) := by
  unfold statusWord errBit busyBit
  rw [h]

/-- A read of CTRL shows IE in bit 0 (R23). -/
theorem ctrlWord_eq (s : State) : ctrlWord s = (BitVec.ofBool s.ctrlIe).zeroExtend 32 := by
  unfold ctrlWord
  cases s.ctrlIe <;> rfl

/-- Settles O6: each offset's register is looked up; the words of STATUS and CTRL are put together from fields. -/
theorem readMapOfWindow : Obligations.ReadMapOfWindow := by
  unfold Obligations.ReadMapOfWindow
  intro s code
  have hcode : errcodeField s = code := by
    unfold errcodeField code
    rcases s.statusErrcode with _ | e
    · rfl
    · cases e <;> rfl
  have hreserved : ∀ off ∈ [0x24#6, 0x28#6, 0x2C#6, 0x30#6, 0x34#6, 0x38#6, 0x3C#6], regAt off = none := by decide
  refine ⟨rfl, ctrlWord_eq s, statusWord_eq hcode, rfl, rfl, rfl, rfl, rfl, rfl, fun off hoff => ?_⟩
  unfold busRead
  rw [hreserved off hoff]

/-- No read depends on the surroundings. -/
theorem busRead_withEnv (off : Offset) (s : State) (e : Env) : busRead off { s with env := e } = busRead off s := by
  unfold busRead
  rcases regAt off with _ | r
  · rfl
  · cases r <;> rfl

/-- Settles O9: a read changes the record of returned words alone, and that is part of the surroundings. -/
theorem readsChangeNoState : Obligations.ReadsChangeNoState := by
  unfold Obligations.ReadsChangeNoState
  intro s off
  exact ⟨⟨_, rfl⟩, fun o => busRead_withEnv o s _, rfl⟩

/-! ### Writes -/

theorem writeCtrl_of_bit1_clear {v : Word} (hv : v.getLsbD 1 = false) (s : State) :
    writeCtrl v s = { s with ctrlIe := v.getLsbD 0 } := by
  unfold writeCtrl
  rw [hv, if_neg Bool.false_ne_true]

theorem writeCtrl_of_bit1_set {v : Word} (hv : v.getLsbD 1 = true) (s : State) :
    writeCtrl v s = engineReset s := if_pos hv

/-- A reset gives every specified piece of state its value of R35's table. -/
theorem hasResetValues_engineReset (s : State) : HasResetValues (engineReset s) :=
  ⟨rfl, rfl, rfl, rfl, rfl, rfl, rfl, rfl, rfl, rfl, rfl, rfl, rfl, rfl,
    fun off hal hid => busRead_engineReset off s hal hid⟩

/-- Settles O10: bit 1 of the written word selects between the two. -/
theorem ctrlWriteActs : Obligations.CtrlWriteActs := by
  unfold Obligations.CtrlWriteActs
  intro s v
  have hwrite : busWrite 0x04#6 v s = writeCtrl v s := rfl
  rw [hwrite]
  constructor
  · intro hv
    rw [writeCtrl_of_bit1_clear hv]
    exact ⟨rfl, rfl⟩
  · intro hv
    rw [writeCtrl_of_bit1_set hv]
    exact ⟨hasResetValues_engineReset s, rfl⟩

/-- Acknowledging a DONE that is clear changes nothing. -/
theorem writeStatus_ack_of_not_done {s : State} (h : s.statusDone = false) : writeStatus 0x00000002#32 s = s := by
  have hdone : (s.statusDone && !(0x00000002#32 : Word).getLsbD 1) = s.statusDone := by rw [h]; rfl
  have hovr : (s.statusOvr && !(0x00000002#32 : Word).getLsbD 4) = s.statusOvr := Bool.and_true _
  unfold writeStatus
  rw [hdone, hovr]

/-- Settles O11: while busy the invariant has DONE clear, so an acknowledge finds nothing to clear. -/
theorem statusWriteOneToClear : Obligations.StatusWriteOneToClear := by
  unfold Obligations.StatusWriteOneToClear
  intro s v
  have hwrite (u : Word) : busWrite 0x08#6 u s = writeStatus u s := rfl
  constructor
  · simp only [hwrite, writeStatus, Bool.if_false_left, Bool.decide_eq_true, Bool.and_comm]
  · rintro ⟨hbusy, -⟩ hp rfl
    obtain ⟨hdone, -⟩ := hbusy hp
    exact (hwrite _).trans (writeStatus_ack_of_not_done hdone)

/-- Settles O12: each of the three offsets is its operand register's. -/
theorem operandWriteStores : Obligations.OperandWriteStores := by
  unfold Obligations.OperandWriteStores
  intro s v
  exact ⟨rfl, rfl, rfl⟩

/-- A write where there is no register, or one a host cannot write, is ignored (R101, R106). -/
theorem busWrite_of_ignored {off : Offset} (h : regAt off ∈ [none, some .id, some .res, some .aux]) (v : Word)
    (s : State) : busWrite off v s = s := by
  simp only [List.mem_cons, List.not_mem_nil, or_false] at h
  unfold busWrite
  rcases h with h | h | h | h <;> rw [h]

/-- Settles O13: each of the listed offsets is reserved or one of ID, RES and AUX. -/
theorem ignoredWritesChangeNothing : Obligations.IgnoredWritesChangeNothing := by
  unfold Obligations.IgnoredWritesChangeNothing
  intro s v off hoff
  have hreg : ∀ off ∈ [0x00#6, 0x1C#6, 0x20#6, 0x24#6, 0x28#6, 0x2C#6, 0x30#6, 0x34#6, 0x38#6, 0x3C#6],
      regAt off ∈ [none, some .id, some .res, some .aux] := by decide
  exact busWrite_of_ignored (hreg off hoff) v s

/-- Settles O14: an accept does the assignments of R109 and then draws the number of engine steps. -/
theorem acceptLatchesOperands : Obligations.AcceptLatchesOperands := by
  unfold Obligations.AcceptLatchesOperands
  intro s w hp
  have hwrite : busWrite 0x0C#6 w s = startWork (acceptRegs w s) := writeCmd_of_idle hp w
  rw [hwrite]
  rcases startWork_cases (acceptRegs w s) with ⟨k, ks, -, h⟩ | ⟨-, k, h⟩
  · exact ⟨k + 1, { s.env with latencies := ks }, h, Nat.le_add_left 1 k, rfl, rfl, rfl⟩
  · exact ⟨k + 1, { s.env with choices := s.env.choices + 1 }, h, Nat.le_add_left 1 k, rfl, rfl, rfl⟩

/-- Settles O15: OVR falls only by the two events of its row in the flag table. -/
theorem overrunDropsTheWord : Obligations.OverrunDropsTheWord := by
  unfold Obligations.OverrunDropsTheWord
  refine ⟨fun s w hp => writeCmd_of_busy hp w, fun s t hs h => ?_⟩
  cases ht : t.statusOvr with
  | true => exact .inl rfl
  | false => exact .inr ((statusOvr_change (stepEffect_of_step h)).clearBy_of_falls Bool.false_ne_true hs ht)

end Sys2Proof.Machine
end

section
/-! Proofs for 40_host_access.md (R100-R118), part 2: the engine sequencer (R110, R115). -/

namespace Sys2Proof.Machine

theorem engineStep_of_idle {s : State} (hp : s.phase = .idle) : engineStep s = .next s := by
  unfold engineStep
  rw [hp]

/-- Settles O23: all that is left of the step is that the schedule has moved on. -/
theorem idleEngineTakesNoStep : Obligations.IdleEngineTakesNoStep := by
  unfold Obligations.IdleEngineTakesNoStep
  intro s ms hp hs
  rw [step_sched hs]
  exact engineStep_of_idle hp

/-- Settles O24: only `work` changes, which no read shows. -/
theorem advanceHasNoVisibleEffect : Obligations.AdvanceHasNoVisibleEffect := by
  unfold Obligations.AdvanceHasNoVisibleEffect
  intro s ms hp hw hs
  exact ⟨step_engine_advances hp hw hs, fun off => busRead_withHidden off s.lat (s.work - 1) s, rfl⟩

theorem latchOutcome_of_decode {l : Latch} {i : Instr} (h : decode l.cmd = some i) :
    latchOutcome l = commandOutcome i l := by
  unfold latchOutcome
  rw [h]

/-- Settles O25: both are the completion with the decoded command's outcome. -/
theorem stepRunsDecodedCommand : Obligations.StepRunsDecodedCommand := by
  unfold Obligations.StepRunsDecodedCommand
  intro s ms i hp hw hs hd
  rw [step_engine_completes hp hw hs, latchOutcome_of_decode hd, exec_eq_complete]
  rfl

/-- Settles O31: what a command stores is its outcome, a function of the latched words. -/
theorem resultsDependOnLatchOnly : Obligations.ResultsDependOnLatchOnly := by
  unfold Obligations.ResultsDependOnLatchOnly
  intro i s t hlat
  exact exec_completes_alike (congrArg (commandOutcome i) hlat)

end Sys2Proof.Machine
end

section
/-! Proofs for 40_host_access.md (R100-R118), part 3: what the polled STATUS bits show (R107, R109-R113), and the
completion of a running command under every interleaving (R110, R117). -/

namespace Sys2Proof.Machine

/-! ### The step that completes and the step that performs a transaction -/

theorem step_of_completes {s : State} (h : StepCompletes s) :
    step s = .next (complete (latchOutcome s.lat) (afterMove s)) := by
  obtain ⟨hm, hp, hw⟩ := h
  have hp' : (afterMove s).phase = .busy := (afterMove_phase s).trans hp
  have hw' : (afterMove s).work ≤ 1 := (afterMove_work s).symm ▸ hw
  unfold step moveStep engineStep
  simp only [hm, hp', if_pos hw', finishCommand_eq, afterMove_lat]

/-- The transaction of a step is the one that the host's next operation becomes. -/
theorem stepAccess_eq_some_iff {s : State} {a : BusAccess} :
    stepAccess s = some a ↔
      currentMove s = .host ∧ ∃ op rest, s.env.bus = op :: rest ∧ deliver op = .ok a := by
  unfold stepAccess
  constructor
  · intro h
    split at h
    · next op rest hm hb =>
      split at h
      · next hd => exact ⟨hm, op, rest, hb, hd.trans (congrArg _ (Option.some.inj h))⟩
      · cases h
    · cases h
  · rintro ⟨hm, op, rest, hb, hd⟩
    simp only [hm, hb, hd]

theorem step_of_stepAccess {s : State} {a : BusAccess} (h : stepAccess s = some a) :
    ∃ ops, step s = .next (setBus ops (busAccess a (afterMove s))) := by
  obtain ⟨hm, op, rest, hb, hd⟩ := stepAccess_eq_some_iff.1 h
  refine ⟨busAfter op rest (afterMove s), ?_⟩
  unfold step moveStep hostStep
  simp only [hm, afterMove_bus, hb, hd]

theorem busWrite_of_regAt_cmd {off : Offset} (h : regAt off = some .cmd) (w : Word) (s : State) :
    busWrite off w s = writeCmd w s := by
  unfold busWrite
  rw [h]

theorem step_of_accepts {s : State} (h : StepAccepts s) :
    ∃ w ops, step s = .next (setBus ops (accept w (afterMove s))) := by
  obtain ⟨hp, w, off, ha, hr⟩ := h
  obtain ⟨ops, hstep⟩ := step_of_stepAccess ha
  have hp' : (afterMove s).phase = .idle := (afterMove_phase s).trans hp
  refine ⟨w, ops, hstep.trans ?_⟩
  rw [busAccess, busWrite_of_regAt_cmd hr, writeCmd_of_idle hp']

/-! ### Polling -/

/-- A poll of a running command: BUSY = 1 and DONE = 0. -/
theorem polls_running_iff (s : State) :
    (busRead 0x08#6 s).getLsbD 0 = true ∧ (busRead 0x08#6 s).getLsbD 1 = false ↔
      s.phase = .busy ∧ s.statusDone = false := by
  rw [busRead_status_busy, busRead_status_done, decide_eq_true_iff]

/-- A poll of a completed command that is not acknowledged: BUSY = 0 and DONE = 1. -/
theorem polls_completed_iff (s : State) :
    (busRead 0x08#6 s).getLsbD 0 = false ∧ (busRead 0x08#6 s).getLsbD 1 = true ↔
      s.phase = .idle ∧ s.statusDone = true := by
  rw [busRead_status_busy, busRead_status_done]
  cases s.phase <;> simp

/-- Settles O59: DONE is clear while busy by the invariant, and a completion sets it. -/
theorem pollingShowsBusyThenDone : Obligations.PollingShowsBusyThenDone := by
  unfold Obligations.PollingShowsBusyThenDone
  rintro s ⟨hbusy, -⟩ hp
  obtain ⟨hdone, -⟩ := hbusy hp
  obtain ⟨hbit0, hbit1⟩ := (polls_running_iff s).2 ⟨hp, hdone⟩
  refine ⟨hbit0, hbit1, fun t h hc => (polls_completed_iff t).2 ?_⟩
  obtain rfl := Host.Outcome.next.inj ((step_of_completes hc).symm.trans h)
  exact ⟨complete_phase .., complete_statusDone ..⟩

theorem Phase.eq_idle_of_ne_busy {p : Phase} (h : p ≠ .busy) : p = .idle := by
  cases p
  · rfl
  · exact absurd rfl h

theorem Phase.eq_busy_of_ne_idle {p : Phase} (h : p ≠ .idle) : p = .busy := by
  cases p
  · exact absurd rfl h
  · rfl

/-- Settles O60: the rows of BUSY and DONE in the flag table name the only events that change them. -/
theorem statusKeepsUntilAcknowledged : Obligations.StatusKeepsUntilAcknowledged := by
  unfold Obligations.StatusKeepsUntilAcknowledged
  intro s t h
  have hphase := phase_change (stepEffect_of_step h)
  have hdone := statusDone_change (stepEffect_of_step h)
  refine ⟨fun ha => ?accepted, fun h0 h1 hnc hnr => ?running, fun h0 h1 hack hna hnr => ?completed⟩
  case accepted =>
    obtain ⟨w, ops, hstep⟩ := step_of_accepts ha
    obtain rfl := Host.Outcome.next.inj (hstep.symm.trans h)
    exact (polls_running_iff _).2 ⟨accept_phase .., accept_statusDone ..⟩
  case running =>
    obtain ⟨hp, hd⟩ := (polls_running_iff s).1 ⟨h0, h1⟩
    refine (polls_running_iff t).2 ⟨Phase.eq_busy_of_ne_idle fun ht => ?_,
      Bool.eq_false_of_not_eq_true fun ht => ?_⟩
    · exact (hphase.clearBy_of_falls nofun hp ht).elim hnc hnr
    · exact hnc (hdone.setBy_of_rises Bool.false_ne_true hd ht)
  case completed =>
    obtain ⟨hp, hd⟩ := (polls_completed_iff s).1 ⟨h0, h1⟩
    refine (polls_completed_iff t).2 ⟨Phase.eq_idle_of_ne_busy fun ht => ?_,
      Bool.eq_true_of_not_eq_false fun ht => ?_⟩
    · exact hna (hphase.setBy_of_rises nofun hp ht)
    · rcases hdone.clearBy_of_falls Bool.false_ne_true hd ht with hr | ha | ⟨v, hw, hv⟩
      · exact hnr hr
      · exact hna ha
      · exact absurd ((hack v hw).symm.trans hv) Bool.false_ne_true

/-! ### Interleavings -/

/-- Every operation the host has still to perform is an engine access, and none is a soft reset. -/
def BusSparesCommand (s : State) : Prop := ∀ op ∈ s.env.bus, ∃ a, deliver op = .ok a ∧ isSoftReset a = false

theorem BusSparesCommand.mono {s t : State} (h : BusSparesCommand s) (hsub : t.env.bus ⊆ s.env.bus) :
    BusSparesCommand t := fun op hop => h op (hsub hop)

theorem busAfter_subset (op : HostOp) (rest : List HostOp) (s : State) : busAfter op rest s ⊆ op :: rest := by
  cases op with
  | wait =>
    rw [busAfter_wait]
    split
    · exact List.subset_cons_self ..
    · exact List.Subset.refl _
  | access | memWrite | memRead => exact List.subset_cons_self ..

/-- A host move that resets nothing takes its turn from the schedule and asks for nothing new. -/
theorem exists_step_host {s : State} {ms : List Move} (hs : s.env.sched = .host :: ms) (hb : BusSparesCommand s) :
    ∃ t, step s = .next t ∧ t.env.sched = ms ∧ t.env.bus ⊆ s.env.bus := by
  cases hbus : s.env.bus with
  | nil =>
    refine ⟨{ s with env := { s.env with sched := ms } }, ?_, rfl, List.subset_nil.2 hbus⟩
    rw [step_sched hs]
    simp only [moveStep, hostStep, hbus]
  | cons op ops =>
    obtain ⟨a, hd, -⟩ := hb op (hbus ▸ List.mem_cons_self)
    exact ⟨_, step_host_performs hs hbus hd, rfl, busAfter_subset op ops s⟩

theorem isSoftReset_write {off : Offset} {v : Word} (hr : regAt off = some .ctrl) (hv : v.getLsbD 1 = true) :
    isSoftReset (.write off v) = true := by
  simp only [isSoftReset, hr, hv, beq_self_eq_true, Bool.and_self]

theorem BusSparesCommand.not_stepResets {s : State} (hb : BusSparesCommand s) (hm : currentMove s = .host) :
    ¬ StepResets s := by
  rintro (hrst | ⟨v, ⟨off, ha, hr⟩, hv⟩)
  · exact absurd (hrst.symm.trans hm) nofun
  · obtain ⟨-, op, rest, hbus, hd⟩ := stepAccess_eq_some_iff.1 ha
    obtain ⟨a, hd', hspares⟩ := hb op (hbus ▸ List.mem_cons_self)
    obtain rfl := Except.ok.inj (hd.symm.trans hd')
    exact absurd (hspares.symm.trans (isSoftReset_write hr hv)) Bool.false_ne_true

/-- Within `n` steps the command with the latched words `l` completes, with its outcome. -/
def CompletesWithin (n : Nat) (l : Latch) (s : State) : Prop :=
  ∃ k t, k ≤ n ∧ Host.Core.run Sys2Proof.core k s = .next t ∧ State.phase t = .idle ∧
    State.statusDone t = true ∧ State.lat t = l ∧ Shows (latchOutcome l) t

theorem CompletesWithin.of_step {n : Nat} {l : Latch} {s u : State} (hstep : step s = .next u)
    (h : CompletesWithin n l u) : CompletesWithin (n + 1) l s := by
  obtain ⟨k, t, hk, hrun, hshown⟩ := h
  exact ⟨k + 1, t, Nat.succ_le_succ hk, (run_succ_of_step core k hstep).trans hrun, hshown⟩

theorem completesWithin_complete (n : Nat) (l : Latch) {s : State} (h : s.lat = l) :
    CompletesWithin n l (complete (latchOutcome l) s) :=
  ⟨0, _, n.zero_le, rfl, complete_phase .., complete_statusDone .., (complete_lat ..).trans h, shows_complete ..⟩

/-- The induction over the moves to come: an engine move counts `work` down or completes the command, a host move
leaves the command running with as many engine moves still to come. -/
theorem completesWithin_interleaved {s : State} {ms rest : List Move} (hp : s.phase = .busy)
    (hs : s.env.sched = ms ++ rest) (hrst : .rst ∉ ms) (hcount : max 1 s.work ≤ ms.count .engine)
    (hb : BusSparesCommand s) : CompletesWithin ms.length s.lat s := by
  induction ms generalizing s with
  | nil => simp at hcount
  | cons m ms ih =>
    have hrst' : .rst ∉ ms := fun hmem => hrst (List.mem_cons_of_mem m hmem)
    cases m with
    | rst => exact absurd List.mem_cons_self hrst
    | engine =>
      rw [List.count_cons_self] at hcount
      by_cases hw : s.work ≤ 1
      · have hlat : (withWork s.work (ms ++ rest) s).lat = s.lat := rfl
        exact (completesWithin_complete _ s.lat hlat).of_step (step_engine_completes hp hw hs)
      · have hcount' : max 1 (s.work - 1) ≤ ms.count .engine := by omega
        exact (ih (s := withWork (s.work - 1) (ms ++ rest) s) hp rfl hrst' hcount' hb).of_step
          (step_engine_advances hp (by omega) hs)
    | host =>
      have hm : currentMove s = .host := currentMove_cons _ _ _ hs
      obtain ⟨t, hstep, hsched, hsub⟩ := exists_step_host hs hb
      obtain ⟨hpt, hlat, hwork, -⟩ := hostStepsLeaveRunningCommand s t hstep hp hm (hb.not_stepResets hm)
      have hother : Move.host ≠ .engine := by decide
      rw [List.count_cons_of_ne hother, ← hwork] at hcount
      exact hlat ▸ (ih hpt hsched hrst' hcount (hb.mono hsub)).of_step hstep

/-- Settles O56: the moves to come hold the command's remaining engine moves. -/
theorem everyInterleavingCompletes : Obligations.EveryInterleavingCompletes := by
  unfold Obligations.EveryInterleavingCompletes
  intro s ms rest hp hs hrst hcount hb
  exact completesWithin_interleaved hp hs hrst hcount hb

end Sys2Proof.Machine
end

section
/-! Proofs for 41_primality.md (R130-R133): trial division by odd candidates decides primality and finds the smallest
divisor, and ISPRIME stores both answers. -/

namespace Sys2Proof.Machine

/-! ### Trial division against Mathlib's primality -/

/-- The smallest divisor of an odd number is one of the loop's candidates 3, 5, 7, …. -/
theorem minFac_of_odd {n : Nat} (hn : n ≠ 1) (hodd : n % 2 = 1) : 3 ≤ n.minFac ∧ n.minFac % 2 = 1 := by
  have hp : n.minFac.Prime := Nat.minFac_prime hn
  have hne : n.minFac ≠ 2 := by rw [Ne, Nat.minFac_eq_two_iff]; omega
  have hle := hp.two_le
  exact ⟨by omega, hp.eq_two_or_odd.resolve_left hne⟩

/-- What the loop of R131 finds is the smallest divisor: no candidate before it divides `n`. -/
theorem firstOddDivisor_some_eq_minFac {n k : Nat} (hn : n ≠ 1) (hodd : n % 2 = 1)
    (h : firstOddDivisor n n 3 = some k) : k = n.minFac := by
  obtain ⟨hk, -, -, hdvd, hleast⟩ := firstOddDivisor_some h
  obtain ⟨hm, hmodd⟩ := minFac_of_odd hn hodd
  have hle : n.minFac ≤ k := Nat.minFac_le_of_dvd (by omega) (Nat.dvd_of_mod_eq_zero hdvd)
  have hnlt : ¬ n.minFac < k := fun hlt => hleast n.minFac hm hlt hmodd (Nat.mod_eq_zero_of_dvd n.minFac_dvd)
  omega

/-- What the loop of R131 finds is a proper divisor, at most the square root. -/
theorem not_prime_of_firstOddDivisor_some {n k : Nat} (h : firstOddDivisor n n 3 = some k) : ¬ n.Prime := by
  obtain ⟨hk, -, hsq, hdvd, -⟩ := firstOddDivisor_some h
  exact Nat.not_prime_of_dvd_of_lt (Nat.dvd_of_mod_eq_zero hdvd) (by omega) (by nlinarith)

/-- The loop of R131 cannot miss a composite: its smallest divisor is a candidate at most the square root. -/
theorem prime_of_firstOddDivisor_none {n : Nat} (hn : n ≠ 1) (hodd : n % 2 = 1)
    (h : firstOddDivisor n n 3 = none) : n.Prime := by
  obtain ⟨hm, hmodd⟩ := minFac_of_odd hn hodd
  by_contra hcomp
  have hsq : n.minFac * n.minFac ≤ n := pow_two n.minFac ▸ Nat.minFac_sq_le_self (by omega) hcomp
  exact firstOddDivisor_none (by omega) h n.minFac hm hmodd hsq (Nat.mod_eq_zero_of_dvd n.minFac_dvd)

/-- The loop from candidate 3 on an odd number above 1. -/
theorem firstOddDivisor_of_odd {n : Nat} (hn : n ≠ 1) (hodd : n % 2 = 1) :
    firstOddDivisor n n 3 = if n.Prime then none else some n.minFac := by
  cases h : firstOddDivisor n n 3 with
  | none => rw [if_pos (prime_of_firstOddDivisor_none hn hodd h)]
  | some k => rw [if_neg (not_prime_of_firstOddDivisor_some h), firstOddDivisor_some_eq_minFac hn hodd h]

/-! ### `IsPrime` and `Witness` -/

/-- `IsPrime` decides primality (R131). -/
theorem isPrimeNat_eq_true_iff (n : Nat) : isPrimeNat n = true ↔ n.Prime := by
  unfold isPrimeNat
  split_ifs with hlt h2 heven
  · exact iff_of_false not_false fun hp => absurd hp.two_le (by omega)
  · exact iff_of_true rfl (h2 ▸ Nat.prime_two)
  · exact iff_of_false not_false fun hp => h2 (hp.eq_two_or_odd.resolve_right (by omega))
  · rw [firstOddDivisor_of_odd (by omega) (by omega)]
    split_ifs with hp
    · exact iff_of_true rfl hp
    · exact iff_of_false Bool.false_ne_true hp

/-- `Witness` is the smallest divisor of a composite (R132). -/
theorem witnessNat_eq (n : Nat) : witnessNat n = if n < 2 ∨ n.Prime then 0 else n.minFac := by
  unfold witnessNat
  split_ifs with hsmall hcase heven hcase hcase
  · rfl
  · exact absurd (hsmall.imp_right fun h => h ▸ Nat.prime_two) hcase
  · exact absurd hcase (not_or.2 ⟨by omega, fun hp => hsmall (.inr (hp.eq_two_or_odd.resolve_right (by omega)))⟩)
  · exact ((Nat.minFac_eq_two_iff n).2 (Nat.dvd_of_mod_eq_zero heven)).symm
  · rw [firstOddDivisor_of_odd (by omega) (by omega), if_pos (hcase.resolve_left (by omega))]
    rfl
  · rw [firstOddDivisor_of_odd (by omega) (by omega), if_neg (not_or.1 hcase).2]
    rfl

/-- A negative integer is not prime (R131), and neither is its `toNat`, 0. -/
theorem isPrime_eq_true_iff (n : Int) : isPrime n = true ↔ n.toNat.Prime := by
  unfold isPrime
  split_ifs with hlt
  · exact iff_of_false not_false fun hp => absurd hp.two_le (by omega)
  · exact isPrimeNat_eq_true_iff n.toNat

theorem witness_eq (n : Int) : witness n = if n < 2 ∨ isPrime n then 0 else n.toNat.minFac := by
  unfold witness
  by_cases hlt : n < 2
  · rw [if_pos hlt, if_pos (.inl hlt)]
  · have hlt_iff : n.toNat < 2 ↔ n < 2 := by omega
    rw [if_neg hlt, witnessNat_eq, if_congr (or_congr hlt_iff (isPrime_eq_true_iff n).symm) rfl rfl]

/-! ### The registers an answer is stored in -/

/-- A completion without an error stores the words of its two results. -/
theorem complete_ok (res aux : Int) (bool : Bool) (s : State) :
    complete (.ok res aux bool) s = completedWith s (word res) (word aux) bool none := rfl

theorem word_bitVal (b : Bool) : word (bitVal b) = if b then 1 else 0 := by
  cases b <;> rfl

theorem word_natCast (n : Nat) : word n = BitVec.ofNat 32 n := BitVec.ofInt_natCast 32 n

/-- The word of `Witness` of an operand: the smallest divisor is that of the unsigned operand, which is the signed
one wherever a divisor is answered. -/
theorem word_witness (w : Word) : word (witness (sval w)) =
    if w.toInt < 2 ∨ isPrime (sval w) then 0 else BitVec.ofNat 32 w.toNat.minFac := by
  rw [word_natCast, witness_eq, sval]
  split_ifs with h
  · rfl
  · obtain ⟨-, -, hnat⟩ := widen_toNat (w := w) (by omega)
    rw [hnat, Int.toNat_natCast]

/-- Settles O37: ISPRIME stores what `IsPrime` and `Witness` answer, and the former decides primality. -/
theorem isprimeResult : Obligations.IsprimeResult := by
  unfold Obligations.IsprimeResult
  refine ⟨decode_eq_some_iff.2 rfl, fun s r hr => ?_⟩
  have hprime : isPrime (sval s.lat.opa) = r :=
    Bool.eq_iff_iff.2 ((isPrime_eq_true_iff _).trans hr.symm)
  have houtcome : commandOutcome .isprime s.lat =
      .ok (bitVal (isPrime (sval s.lat.opa))) (witness (sval s.lat.opa)) (isPrime (sval s.lat.opa)) := rfl
  rw [exec_eq_complete, houtcome, complete_ok, word_bitVal, word_witness, hprime]

end Sys2Proof.Machine
end

section
/-! Proofs for 42_modular_arithmetic.md (R140-R152): what `ExtEuclid` returns (R151), and what MODPOW, MODMUL and
MODINV store for accepted operands and for the others. -/

namespace Sys2Proof.Machine

/-! ### Extended Euclid -/

/-- The second result of `ExtEuclid` is a Bézout coefficient of `a` (R151). -/
theorem extEuclid_modEq {a m : Int} (ha : 0 ≤ a) (hm : 0 < m) :
    a * (extEuclid a m).2 ≡ (extEuclid a m).1 [ZMOD m] := by
  obtain ⟨_, h⟩ := extEuclidLoop_values m.toNat a m 1 0 (euclidValues_start ha hm) le_rfl
  exact (Int.modEq_iff_dvd.2 h.cong_x).symm

/-- Modulo 1 the loop of R151 ends after one iteration. -/
theorem extEuclid_one_right (a : Int) : extEuclid a 1 = (1, 0) := rfl

/-- A coefficient of size `m` would make `m` divide the gcd 1, and modulo 1 the coefficient is 0: so for gcd 1 the
bound of `extEuclid_coeff_le` is strict. -/
theorem extEuclid_coeff_lt {a m : Int} (ha : 0 ≤ a) (hm : 0 < m) (hg : (extEuclid a m).1 = 1) :
    |(extEuclid a m).2| < m := by
  refine (extEuclid_coeff_le ha hm).lt_of_ne fun heq => ?_
  have hdvd : m ∣ (extEuclid a m).2 := (dvd_abs _ _).1 heq.symm.dvd
  have hcong : a * (extEuclid a m).2 ≡ 1 [ZMOD m] := hg ▸ extEuclid_modEq ha hm
  have hone : m ∣ 1 := hcong.dvd_iff.1 (hdvd.mul_left a)
  obtain rfl : m = 1 := Int.eq_one_of_dvd_one hm.le hone
  rw [extEuclid_one_right] at heq
  exact absurd heq (by decide)

/-- Settles O36: the values of the recurrence at its end, with the bound on the coefficient made strict. -/
theorem extEuclidIsBezout : Obligations.ExtEuclidIsBezout := by
  unfold Obligations.ExtEuclidIsBezout
  intro a m ha hm
  exact ⟨extEuclid_fst ha hm, extEuclid_modEq ha hm, fun hg => abs_lt.1 (extEuclid_coeff_lt ha hm hg)⟩

/-- `ExtEuclid` on natural numbers: the gcd. -/
theorem extEuclid_natCast_fst (a : Nat) {m : Nat} (hm : 0 < m) : (extEuclid a m).1 = Nat.gcd a m := by
  rw [extEuclid_fst (by omega) (by omega), Int.gcd_natCast_natCast]

/-- The coefficient of coprime numbers, reduced by the floor remainder, is the inverse of `a` (R150). -/
theorem exists_inverse_eq_coeff_emod {a m : Nat} (hm : 0 < m) (hg : Nat.gcd a m = 1) :
    ∃ r : Nat, r < m ∧ a * r ≡ 1 [MOD m] ∧ (extEuclid a m).2 % m = r := by
  have hm' : (0 : Int) < m := by omega
  obtain ⟨r, hr⟩ := Int.eq_ofNat_of_zero_le (Int.emod_nonneg (extEuclid a m).2 hm'.ne')
  have hlt : (r : Int) < m := hr ▸ Int.emod_lt_of_pos _ hm'
  have hinv : (a * r : Int) ≡ 1 [ZMOD m] :=
    calc (a * r : Int)
      _ ≡ a * (extEuclid a m).2 [ZMOD m] := hr ▸ (Int.mod_modEq _ _).mul_left _
      _ ≡ (extEuclid a m).1 [ZMOD m] := extEuclid_modEq (by omega) hm'
      _ = 1 := by rw [extEuclid_natCast_fst a hm, hg, Nat.cast_one]
  exact ⟨r, by omega, by exact_mod_cast hinv, hr⟩

/-! ### The outcome for accepted operands -/

section accepted

variable {l : Latch} (hm : 0 < l.opm.toInt) (ha : 0 ≤ l.opa.toInt)

include hm ha

/-- MODPOW on accepted operands (R141). -/
theorem commandOutcome_modpow_accepted (hb : 0 ≤ l.opb.toInt) :
    commandOutcome .modpow l = .ok (modPow l.opa.toNat l.opb.toNat l.opm.toNat) 0 false := by
  have hrun : commandOutcome .modpow l = .ok (modPow l.opa.toInt.toNat l.opb.toInt.toNat l.opm.toInt.toNat) 0 false :=
    if_neg (show ¬ (l.opm.toInt ≤ 0 ∨ l.opa.toInt < 0 ∨ l.opb.toInt < 0) by omega)
  rw [hrun, (widen_toNat ha).2.2, (widen_toNat hb).2.2, (widen_toNat hm.le).2.2]
  rfl

/-- MODMUL on accepted operands (R146). -/
theorem commandOutcome_modmul_accepted (hb : 0 ≤ l.opb.toInt) :
    commandOutcome .modmul l = .ok (l.opa.toNat * l.opb.toNat % l.opm.toNat : Nat) 0 false := by
  have hrun : commandOutcome .modmul l = .ok (l.opa.toInt * l.opb.toInt % l.opm.toInt) 0 false :=
    if_neg (show ¬ (l.opm.toInt ≤ 0 ∨ l.opa.toInt < 0 ∨ l.opb.toInt < 0) by omega)
  rw [hrun, (widen_toNat ha).2.2, (widen_toNat hb).2.2, (widen_toNat hm.le).2.2]
  rfl

/-- MODINV on accepted operands is decided by the gcd (R150). -/
theorem commandOutcome_modinv_accepted :
    commandOutcome .modinv l =
      if Nat.gcd l.opa.toNat l.opm.toNat = 1 then .ok ((extEuclid l.opa.toNat l.opm.toNat).2 % l.opm.toNat) 1 false
      else .err .nonInvertibleInput (Nat.gcd l.opa.toNat l.opm.toNat : Nat) := by
  obtain ⟨-, -, ham⟩ := widen_toNat ha
  obtain ⟨-, -, hmm⟩ := widen_toNat hm.le
  have hrun : commandOutcome .modinv l =
      if (extEuclid l.opa.toInt l.opm.toInt).1 ≠ 1 then .err .nonInvertibleInput (extEuclid l.opa.toInt l.opm.toInt).1
      else .ok ((extEuclid l.opa.toInt l.opm.toInt).2 % l.opm.toInt) 1 false :=
    if_neg (show ¬ (l.opm.toInt ≤ 0 ∨ l.opa.toInt < 0) by omega)
  rw [hrun, ham, hmm, extEuclid_natCast_fst l.opa.toNat (by omega), ite_not]
  norm_cast

end accepted

/-! ### The registers an answer is stored in -/

/-- A completion with an error stores the word of its info and discards every result (R112). -/
theorem complete_err (code : CmdError) (info : Int) (s : State) :
    complete (.err code info) s = completedWith s 0 (word info) false (some code) := rfl

theorem word_zero : word 0 = 0 := rfl

theorem word_one : word 1 = 1 := rfl

/-- The word of `ModPow` for an exponent register, which is 0 exactly when the exponent is (R143). -/
theorem word_modPow (a m : Nat) (n : Word) :
    word (modPow a n.toNat m) = if n = 0 then 1 else BitVec.ofNat 32 (a ^ n.toNat % m) := by
  have hzero : n.toNat = 0 ↔ n = 0 := BitVec.toNat_inj (y := 0)
  rw [word_natCast, modPow_eq, if_congr hzero rfl rfl, apply_ite (BitVec.ofNat 32)]
  rfl

/-- A command whose operand check fails completes with PreconditionViolation and AUX = 0 (R112, R141). -/
theorem exec_of_preconditionViolation {i : Instr} {s : State}
    (h : commandOutcome i s.lat = .err .preconditionViolation 0) :
    exec i s = .next (completedWith s 0 0 false (some .preconditionViolation)) := by
  rw [exec_eq_complete, h, complete_err, word_zero]

/-- Settles O33: square-and-multiply computes the power, and the loop does not run for exponent 0. -/
theorem modpowResult : Obligations.ModpowResult := by
  unfold Obligations.ModpowResult
  refine ⟨decode_eq_some_iff.2 rfl, fun s => ⟨fun hm ha hb => ?_, fun h => ?_⟩⟩
  · rw [exec_eq_complete, commandOutcome_modpow_accepted hm ha hb, complete_ok, word_modPow, word_zero]
  · exact exec_of_preconditionViolation (if_pos h)

/-- Settles O34: on accepted operands the signed product and remainder are the unsigned ones. -/
theorem modmulResult : Obligations.ModmulResult := by
  unfold Obligations.ModmulResult
  refine ⟨decode_eq_some_iff.2 rfl, fun s => ⟨fun hm ha hb => ?_, fun h => ?_⟩⟩
  · rw [exec_eq_complete, commandOutcome_modmul_accepted hm ha hb, complete_ok, word_natCast, word_zero]
  · exact exec_of_preconditionViolation (if_pos h)

/-- Settles O35: the reduced coefficient of `ExtEuclid` is the inverse, and its first result the gcd. -/
theorem modinvResult : Obligations.ModinvResult := by
  unfold Obligations.ModinvResult
  refine ⟨decode_eq_some_iff.2 rfl, fun s => ⟨fun hm ha hg => ?_, fun hm ha hg => ?_, fun h => ?_⟩⟩
  · have hpos : 0 < s.lat.opm.toNat := by have := (widen_toNat hm.le).2.2; omega
    obtain ⟨r, hlt, hinv, hr⟩ := exists_inverse_eq_coeff_emod hpos hg
    refine ⟨r, hlt, hinv, ?_⟩
    rw [exec_eq_complete, commandOutcome_modinv_accepted hm ha, if_pos hg, hr, complete_ok, word_natCast, word_one]
  · rw [exec_eq_complete, commandOutcome_modinv_accepted hm ha, if_neg hg, complete_err, word_natCast]
  · exact exec_of_preconditionViolation (if_pos h)

end Sys2Proof.Machine
end

section
/-! Proofs for 43_domain_parameters.md (R160-R175): the safe-prime validator stores the conjunction of its two
primality tests, GENFIND stores the least candidate that passes its filter, and which candidate that is on a safe
prime. -/

namespace Sys2Proof.Machine

/-! ### Safe-prime validator -/

/-- The oddness test of R161 changes no result. -/
theorem odd_of_safePrime {q : Nat} (hq : q.Prime) (hp : ((q - 1) / 2).Prime) : q % 2 = 1 :=
  hq.eq_two_or_odd.resolve_left fun h => by
    rw [h] at hp
    exact Nat.not_prime_zero hp

/-- SAFEPRIME.Q on a positive operand (R161). -/
theorem commandOutcome_safeprimeQ_of_pos {l : Latch} (h : 1 ≤ l.opa.toInt) {r : Bool}
    (hr : r = true ↔ l.opa.toNat.Prime ∧ ((l.opa.toNat - 1) / 2).Prime) :
    commandOutcome .safeprimeQ l = .ok (bitVal r) ((l.opa.toNat - 1) / 2 : Nat) r := by
  obtain ⟨-, -, hq⟩ := widen_toNat (w := l.opa) (by omega)
  have hp : (l.opa.toInt - 1) / 2 = ((l.opa.toNat - 1) / 2 : Nat) := by omega
  have hodd : l.opa.toInt % 2 = 1 ↔ l.opa.toNat % 2 = 1 := by omega
  have htest : (isPrime l.opa.toInt && decide (l.opa.toInt % 2 = 1) && isPrime ((l.opa.toInt - 1) / 2)) = r := by
    rw [Bool.eq_iff_iff, hr, Bool.and_eq_true, Bool.and_eq_true, decide_eq_true_iff, hodd, isPrime_eq_true_iff,
      isPrime_eq_true_iff, hp, hq, Int.toNat_natCast, Int.toNat_natCast]
    exact ⟨fun ⟨⟨hprime, _⟩, hhalf⟩ => ⟨hprime, hhalf⟩,
      fun ⟨hprime, hhalf⟩ => ⟨⟨hprime, odd_of_safePrime hprime hhalf⟩, hhalf⟩⟩
  rw [← htest, ← hp]
  exact if_neg (show ¬ l.opa.toInt < 1 by omega)

/-- SAFEPRIME.P on an operand with headroom for `2 * p + 1` (R165). -/
theorem commandOutcome_safeprimeP_accepted {l : Latch} (h : 0 ≤ l.opa.toInt) (hle : l.opa.toInt ≤ 1073741823)
    {r : Bool} (hr : r = true ↔ l.opa.toNat.Prime ∧ (2 * l.opa.toNat + 1).Prime) :
    commandOutcome .safeprimeP l = .ok (bitVal r) (2 * l.opa.toNat + 1 : Nat) r := by
  obtain ⟨-, -, hp⟩ := widen_toNat h
  have hq : 2 * l.opa.toInt + 1 = (2 * l.opa.toNat + 1 : Nat) := by omega
  have htest : (isPrime l.opa.toInt && isPrime (2 * l.opa.toInt + 1)) = r := by
    rw [Bool.eq_iff_iff, hr, Bool.and_eq_true, isPrime_eq_true_iff, isPrime_eq_true_iff, hq, hp, Int.toNat_natCast,
      Int.toNat_natCast]
  rw [← htest, ← hq]
  exact if_neg (show ¬ (l.opa.toInt < 0 ∨ l.opa.toInt > 2 ^ 30 - 1) by omega)

/-- Settles O38: below 1 the command answers 0 throughout, and from 1 on both tests decide primality. -/
theorem safeprimeQResult : Obligations.SafeprimeQResult := by
  unfold Obligations.SafeprimeQResult
  refine ⟨decode_eq_some_iff.2 rfl, fun s r hr => ?_⟩
  by_cases h : s.lat.opa.toInt < 1
  · obtain rfl : r = false := Bool.eq_false_iff.2 fun hr' => absurd (hr.1 hr').1 (by omega)
    have hrun : commandOutcome .safeprimeQ s.lat = .ok 0 0 false := if_pos h
    rw [exec_eq_complete, hrun, complete_ok, word_zero, if_pos h]
    rfl
  · have hpos : 1 ≤ s.lat.opa.toInt := by omega
    rw [exec_eq_complete, commandOutcome_safeprimeQ_of_pos hpos (hr.trans (and_iff_right hpos)), complete_ok,
      word_bitVal, word_natCast, if_neg h]

/-- Settles O39: in the accepted range both tests decide primality. -/
theorem safeprimePResult : Obligations.SafeprimePResult := by
  unfold Obligations.SafeprimePResult
  refine ⟨decode_eq_some_iff.2 rfl, fun s r => ⟨fun h hle hr => ?_, fun h => ?_⟩⟩
  · rw [exec_eq_complete, commandOutcome_safeprimeP_accepted h hle hr, complete_ok, word_bitVal, word_natCast]
  · exact exec_of_preconditionViolation
      (if_pos (show s.lat.opa.toInt < 0 ∨ s.lat.opa.toInt > 2 ^ 30 - 1 by omega))

/-- In the range of R166 the register of `2 * p + 1` neither wraps nor turns negative. -/
theorem double_add_one_toNat {w : Word} (h : 0 ≤ w.toInt) (hle : w.toInt ≤ 1073741823) :
    (2 * w + 1).toNat = 2 * w.toNat + 1 ∧ 1 ≤ (2 * w + 1).toInt := by
  obtain ⟨-, -, hw⟩ := widen_toNat h
  have hnat : (2 * w + 1).toNat = 2 * w.toNat + 1 := by
    rw [BitVec.toNat_add, BitVec.toNat_mul]
    change (2 * w.toNat % 2 ^ 32 + 1) % 2 ^ 32 = _
    omega
  have hint : (2 * w + 1).toInt = (2 * w + 1).toNat := BitVec.toInt_eq_toNat_of_lt (by omega)
  exact ⟨hnat, by omega⟩

/-- Settles O40: with `q = 2 * p + 1` both commands conjoin the same two tests, and `p = (q - 1) div 2`. -/
theorem safeprimeFormsAgree : Obligations.SafeprimeFormsAgree := by
  unfold Obligations.SafeprimeFormsAgree
  intro s t h hle ht
  obtain ⟨hnat, hpos⟩ := double_add_one_toNat h hle
  rw [← ht] at hnat hpos
  have hhalf : (t.lat.opa.toNat - 1) / 2 = s.lat.opa.toNat := by omega
  obtain ⟨r, hr⟩ : ∃ r : Bool, r = true ↔ s.lat.opa.toNat.Prime ∧ (2 * s.lat.opa.toNat + 1).Prime :=
    ⟨decide _, decide_eq_true_iff⟩
  have hP := (safeprimePResult.2 s r).1 h hle hr
  have hQ := safeprimeQResult.2 t r (by rw [hr, hhalf, hnat, and_iff_right hpos, and_comm])
  rw [← hnat, BitVec.ofNat_toNat, BitVec.setWidth_eq] at hP
  rw [hhalf, if_neg (show ¬ t.lat.opa.toInt < 1 by omega), BitVec.ofNat_toNat, BitVec.setWidth_eq] at hQ
  exact ⟨_, _, hP, hQ⟩

/-! ### Generator finder -/

/-- A non-negative operand A is its register's unsigned value (R8). -/
theorem toNat_a_of_nonneg {l : Latch} (h : 0 ≤ l.opa.toInt) : l.a.toNat = l.opa.toNat := by
  have ha : l.a = l.opa.toNat := (widen_toNat h).2.2
  rw [ha, Int.toNat_natCast]

/-- The candidates of the scan of R170 that pass its filter. -/
def passing (q : Nat) (filter : Nat → Bool) : Set Nat := {i | 2 ≤ i ∧ i ≤ q - 1 ∧ filter i = true}

theorem genScan_eq_some_of_isLeast {q g : Nat} {filter : Nat → Bool} (h : IsLeast (passing q filter) g) :
    genScan q filter q 2 = some g := by
  obtain ⟨⟨hg, hgq, hpass⟩, hleast⟩ := h
  cases hs : genScan q filter q 2 with
  | none =>
    have hfail := genScan_none (by omega) hs g hg hgq (by omega)
    exact absurd (hpass.symm.trans hfail) (by decide)
  | some k =>
    obtain ⟨hk, hkq, hkpass, hbefore⟩ := genScan_some hs
    have hle : g ≤ k := hleast ⟨hk, hkq, hkpass⟩
    have hnlt : ¬ g < k := fun hlt => absurd (hpass.symm.trans (hbefore g hg hlt)) (by decide)
    rw [show k = g by omega]

theorem genScan_eq_none_of_forall_notMem {q : Nat} {filter : Nat → Bool} (h : ∀ i, i ∉ passing q filter) :
    genScan q filter q 2 = none := by
  cases hs : genScan q filter q 2 with
  | none => rfl
  | some k =>
    obtain ⟨hk, hkq, hkpass, -⟩ := genScan_some hs
    exact absurd ⟨hk, hkq, hkpass⟩ (h k)

/-- Filter SUB in closed form (R171): the exponent `p` is not 0, so `ModPow` is the power. -/
theorem mem_passing_subOk {q p i : Nat} (hp : p ≠ 0) :
    i ∈ passing q (subOk q p) ↔ 2 ≤ i ∧ i ≤ q - 1 ∧ i * i % q ≠ 1 ∧ i ^ p % q = 1 := by
  refine and_congr_right fun hi => and_congr_right fun _ => ?_
  have hne : i ≠ 1 := by omega
  simp [subOk, modPow_eq, hp, hne]

/-- Filter REF in closed form (R172). -/
theorem mem_passing_refOk {q p i : Nat} (hq : q ≠ 0) :
    i ∈ passing q (refOk q p) ↔ 2 ≤ i ∧ i ≤ q - 1 ∧ i * i % q ≠ 1 ∧ i ^ q % p ≠ 1 := by
  refine and_congr_right fun hi => and_congr_right fun _ => ?_
  have hne : i ≠ 1 := by omega
  simp [refOk, modPow_eq, hq, hne]

section genfind

variable {i : Instr} {filter : Nat → Nat → Nat → Bool} {s : State}
  (hi : commandOutcome i s.lat = outcomeGenfind filter s.lat) (h : 3 ≤ s.lat.opa.toInt)

include hi h

/-- GENFIND on an accepted operand stores the least candidate that passes (R173). -/
theorem exec_genfind_of_isLeast {g : Nat}
    (hg : IsLeast (passing s.lat.opa.toNat (filter s.lat.opa.toNat ((s.lat.opa.toNat - 1) / 2))) g) :
    exec i s = .next (completedWith s (BitVec.ofNat 32 g) (BitVec.ofNat 32 ((s.lat.opa.toNat - 1) / 2)) true none) := by
  have hout : outcomeGenfind filter s.lat = .ok g ((s.lat.opa.toNat - 1) / 2 : Nat) true := by
    unfold outcomeGenfind
    rw [if_neg (show ¬ s.lat.a < 3 from not_lt.2 h), toNat_a_of_nonneg (by omega)]
    simp only [genScan_eq_some_of_isLeast hg]
  rw [exec_eq_complete, hi, hout, complete_ok, word_natCast, word_natCast]

/-- GENFIND on an accepted operand reports DomainConstructionFailure when no candidate passes (R173). -/
theorem exec_genfind_of_forall_notMem
    (hnone : ∀ g, g ∉ passing s.lat.opa.toNat (filter s.lat.opa.toNat ((s.lat.opa.toNat - 1) / 2))) :
    exec i s = .next (completedWith s 0 (BitVec.ofNat 32 ((s.lat.opa.toNat - 1) / 2)) false
      (some .domainConstructionFailure)) := by
  have hout : outcomeGenfind filter s.lat = .err .domainConstructionFailure ((s.lat.opa.toNat - 1) / 2 : Nat) := by
    unfold outcomeGenfind
    rw [if_neg (show ¬ s.lat.a < 3 from not_lt.2 h), toNat_a_of_nonneg (by omega)]
    simp only [genScan_eq_none_of_forall_notMem hnone]
  rw [exec_eq_complete, hi, hout, complete_err, word_natCast]

end genfind

/-- Settles O41: the scan answers the least candidate that passes filter SUB, or none. -/
theorem genfindSubResult : Obligations.GenfindSubResult := by
  unfold Obligations.GenfindSubResult
  refine ⟨decode_eq_some_iff.2 rfl, fun s => ⟨fun h => ?_, fun h => exec_of_preconditionViolation (if_pos h)⟩⟩
  obtain ⟨-, -, hq⟩ := widen_toNat (w := s.lat.opa) (by omega)
  have hmem (g : Nat) := mem_passing_subOk (q := s.lat.opa.toNat) (i := g)
    (show (s.lat.opa.toNat - 1) / 2 ≠ 0 by omega)
  exact ⟨fun g hg hleast => exec_genfind_of_isLeast rfl h ⟨(hmem g).2 hg, fun k hk => hleast k ((hmem k).1 hk)⟩,
    fun hnone => exec_genfind_of_forall_notMem rfl h fun g hg => hnone g ((hmem g).1 hg)⟩

/-- Settles O42: the scan answers the least candidate that passes filter REF, or none. -/
theorem genfindRefResult : Obligations.GenfindRefResult := by
  unfold Obligations.GenfindRefResult
  refine ⟨decode_eq_some_iff.2 rfl, fun s => ⟨fun h => ?_, fun h => exec_of_preconditionViolation (if_pos h)⟩⟩
  obtain ⟨-, -, hq⟩ := widen_toNat (w := s.lat.opa) (by omega)
  have hmem (g : Nat) := mem_passing_refOk (p := (s.lat.opa.toNat - 1) / 2) (i := g)
    (show s.lat.opa.toNat ≠ 0 by omega)
  exact ⟨fun g hg hleast => exec_genfind_of_isLeast rfl h ⟨(hmem g).2 hg, fun k hk => hleast k ((hmem k).1 hk)⟩,
    fun hnone => exec_genfind_of_forall_notMem rfl h fun g hg => hnone g ((hmem g).1 hg)⟩

/-! ### The scans on a safe prime -/

/-- A power modulo `n` is 1 where it is 1 in `ZMod n`. -/
theorem natCast_pow_eq_one_iff_mod {n : Nat} (hn : 1 < n) (g k : Nat) : (g : ZMod n) ^ k = 1 ↔ g ^ k % n = 1 := by
  rw [← Nat.cast_pow, ← Nat.cast_one (R := ZMod n), ZMod.natCast_eq_natCast_iff', Nat.mod_eq_of_lt hn]

/-- What passes filter SUB has order `p` (R171, R175). -/
theorem orderOf_of_mem_passing_subOk {q p g : Nat} (hp : p.Prime) (hg : g ∈ passing q (subOk q p)) :
    orderOf (g : ZMod q) = p := by
  obtain ⟨hg2, hgq, hsq, hpow⟩ := (mem_passing_subOk hp.ne_zero).1 hg
  have hq : 1 < q := by omega
  have : Fact p.Prime := ⟨hp⟩
  refine orderOf_eq_prime ((natCast_pow_eq_one_iff_mod hq g p).2 hpow) fun hone => hsq ?_
  rw [← pow_two, ← natCast_pow_eq_one_iff_mod hq, hone, one_pow]

section safePrime

variable {q p : Nat} (hqp : q = 2 * p + 1) (hq : q.Prime) (hp : p.Prime)

include hqp hp

/-- 1 modulo 8 is no residue of a safe prime: its `p` would be divisible by 4. -/
theorem safePrime_mod_eight_ne_one : q % 8 ≠ 1 := by
  intro h
  have hp2 : 2 = p := (Nat.prime_dvd_prime_iff_eq Nat.prime_two hp).1 (by omega)
  omega

theorem two_sq_mod_safePrime : 2 * 2 % q ≠ 1 := by
  have hp2 := hp.two_le
  rw [Nat.mod_eq_of_lt (by omega)]
  decide

theorem two_ne_zero_mod_safePrime : (2 : ZMod q) ≠ 0 := by
  have hp2 := hp.two_le
  have hcast : ((2 : Nat) : ZMod q) ≠ 0 :=
    mt (ZMod.natCast_eq_zero_iff 2 q).1 (Nat.not_dvd_of_pos_of_lt (by omega) (by omega))
  exact hcast

include hq

/-- Fermat's theorem for 2. -/
theorem two_pow_two_mul_mod_safePrime : 2 ^ (2 * p) % q = 1 := by
  have : Fact q.Prime := ⟨hq⟩
  rw [← natCast_pow_eq_one_iff_mod hq.one_lt, show 2 * p = q - 1 by omega]
  exact ZMod.pow_card_sub_one_eq_one (two_ne_zero_mod_safePrime hqp hp)

/-- By Euler's criterion `2 ^ p` is 1 where 2 is a square, which is for these residues of `q` (R175). -/
theorem two_pow_mod_safePrime : 2 ^ p % q = 1 ↔ q % 8 = 1 ∨ q % 8 = 7 := by
  have : Fact q.Prime := ⟨hq⟩
  have hp2 := hp.two_le
  rw [← ZMod.exists_sq_eq_two_iff (by omega), ZMod.euler_criterion q (two_ne_zero_mod_safePrime hqp hp),
    show q / 2 = p by omega]
  exact (natCast_pow_eq_one_iff_mod hq.one_lt 2 p).symm

/-- `2 ^ q` is 8 modulo `p` by Fermat's theorem, and 8 is 1 only modulo 7, where `q` would be 15 (R175). -/
theorem two_pow_safePrime_mod_half : 2 ^ q % p ≠ 1 := by
  have : Fact p.Prime := ⟨hp⟩
  intro h
  have height : (2 : ZMod p) ^ q = 8 := by
    rw [hqp, pow_succ, pow_mul', ZMod.pow_card]
    norm_num
  have hone : (2 : ZMod p) ^ q = 1 := (natCast_pow_eq_one_iff_mod hp.one_lt 2 q).2 h
  have hseven : ((7 : Nat) : ZMod p) = 0 := by
    push_cast
    linear_combination hone - height
  obtain rfl : p = 7 := (Nat.prime_dvd_prime_iff_eq hp (by decide)).1 ((ZMod.natCast_eq_zero_iff 7 p).1 hseven)
  exact absurd (hqp ▸ hq) (by decide)

/-- 4 passes filter SUB from `q = 7` on: `4 ^ p` is `2 ^ (q - 1)` (R175). -/
theorem four_mem_passing_subOk (h7 : 7 ≤ q) : 4 ∈ passing q (subOk q p) := by
  refine (mem_passing_subOk hp.ne_zero).2 ⟨by decide, by omega, fun hsq => ?_, ?_⟩
  · have hdvd : q ∣ 3 * 5 := by simpa [hsq] using Nat.dvd_sub_mod (n := q) (4 * 4)
    rcases hq.dvd_mul.1 hdvd with h3 | h5
    · exact absurd (Nat.le_of_dvd (by decide) h3) (by omega)
    · exact absurd (Nat.le_of_dvd (by decide) h5) (by omega)
  · rw [show 4 = 2 ^ 2 from rfl, ← pow_mul]
    exact two_pow_two_mul_mod_safePrime hqp hq hp

theorem two_mem_passing_subOk_iff : 2 ∈ passing q (subOk q p) ↔ q % 8 = 1 ∨ q % 8 = 7 := by
  have hp2 := hp.two_le
  rw [mem_passing_subOk hp.ne_zero, ← two_pow_mod_safePrime hqp hq hp]
  exact ⟨fun ⟨_, _, _, hpow⟩ => hpow, fun hpow => ⟨le_rfl, by omega, two_sq_mod_safePrime hqp hp, hpow⟩⟩

/-- 2 passes filter REF on every safe prime (R175). -/
theorem two_mem_passing_refOk : 2 ∈ passing q (refOk q p) := by
  have hp2 := hp.two_le
  exact (mem_passing_refOk hq.ne_zero).2
    ⟨le_rfl, by omega, two_sq_mod_safePrime hqp hp, two_pow_safePrime_mod_half hqp hq hp⟩

/-- Where 2 does not pass filter SUB its order is `2 * p`: it divides that by Fermat's theorem, and neither `2 ^ p`
nor `2 ^ 2` is 1 (R175). -/
theorem orderOf_two_of_notMem (h : 2 ∉ passing q (subOk q p)) : orderOf (2 : ZMod q) = 2 * p := by
  have hpow (k : Nat) : (2 : ZMod q) ^ k = 1 ↔ 2 ^ k % q = 1 := natCast_pow_eq_one_iff_mod hq.one_lt 2 k
  have hpos := hp.pos
  refine orderOf_eq_of_pow_and_pow_div_prime (by omega)
    ((hpow _).2 (two_pow_two_mul_mod_safePrime hqp hq hp)) fun r hr hdvd => ?_
  rw [Ne, hpow]
  rcases hr.dvd_mul.1 hdvd with hr2 | hrp
  · obtain rfl := (Nat.prime_dvd_prime_iff_eq hr Nat.prime_two).1 hr2
    rw [Nat.mul_div_cancel_left p (by decide), two_pow_mod_safePrime hqp hq hp, ← two_mem_passing_subOk_iff hqp hq hp]
    exact h
  · obtain rfl := (Nat.prime_dvd_prime_iff_eq hr hp).1 hrp
    rw [Nat.mul_div_cancel 2 hpos]
    exact two_sq_mod_safePrime hqp hp

end safePrime

/-- GENFIND on an odd `q = 2 * p + 1` stores the least candidate that passes, and `p`. -/
theorem exec_genfind_of_odd {i : Instr} {filter : Nat → Nat → Nat → Bool} {s : State}
    (hi : commandOutcome i s.lat = outcomeGenfind filter s.lat) {q p g : Nat} (hs : s.lat.opa.toInt = q)
    (hqp : q = 2 * p + 1) (hg : IsLeast (passing q (filter q p)) g) :
    exec i s = .next (completedWith s (BitVec.ofNat 32 g) (BitVec.ofNat 32 p) true none) := by
  obtain ⟨hg2, hgq, -⟩ := hg.1
  have hnat : s.lat.opa.toNat = q := by
    have := (widen_toNat (w := s.lat.opa) (by omega)).2.2
    omega
  have hhalf : (q - 1) / 2 = p := by omega
  have hrun := exec_genfind_of_isLeast hi (by omega) (g := g)
  rw [hnat, hhalf] at hrun
  exact hrun hg

/-- Settles O43: 4 passes, so the least candidate that passes is at most 4, and it is 2 where 2 passes. -/
theorem genfindSubOnSafePrime : Obligations.GenfindSubOnSafePrime := by
  unfold Obligations.GenfindSubOnSafePrime
  intro s q p hs hqp hq hp h7
  have hfour := four_mem_passing_subOk hqp hq hp h7
  obtain ⟨g, hg⟩ : ∃ g, IsLeast (passing q (subOk q p)) g :=
    ⟨_, Nat.sInf_mem ⟨4, hfour⟩, fun _ hk => Nat.sInf_le hk⟩
  have hg2 : 2 ≤ g := hg.1.1
  have hg4 : g ≤ 4 := hg.2 hfour
  have htwo : g = 2 ↔ 2 ∈ passing q (subOk q p) := ⟨fun h => h ▸ hg.1, fun h => (hg.2 h).antisymm hg2⟩
  exact ⟨g, by omega, orderOf_of_mem_passing_subOk hp hg.1, htwo.trans (two_mem_passing_subOk_iff hqp hq hp),
    exec_genfind_of_odd rfl hs hqp hg⟩

/-- Settles O44: 2 is the first candidate and passes; it passes filter SUB as well exactly when `q mod 8` is 7. -/
theorem genfindRefOnSafePrime : Obligations.GenfindRefOnSafePrime := by
  unfold Obligations.GenfindRefOnSafePrime
  intro s q p hs hqp hq hp
  have hsub : 2 ∈ passing q (subOk q p) ↔ q % 8 = 7 :=
    (two_mem_passing_subOk_iff hqp hq hp).trans (or_iff_right (safePrime_mod_eight_ne_one hqp hp))
  refine ⟨exec_genfind_of_odd rfl hs hqp ⟨two_mem_passing_refOk hqp hq hp, fun _ hk => hk.1⟩, ?_⟩
  split_ifs with h
  · exact orderOf_of_mem_passing_subOk hp (hsub.2 h)
  · exact orderOf_two_of_notMem hqp hq hp (mt hsub.1 h)

end Sys2Proof.Machine
end

section
/-! Proofs for 60_exceptions.md (R200-R208): which operands raise PreconditionViolation (R201), what a completion with
an error records (R200, R202), and both orders of a host access and a completion (R208). -/

namespace Sys2Proof.Machine

/-! ### The errors a command can end in -/

/-- The operand conditions of R201. -/
def PreconditionFails (l : Latch) : Instr → Prop
  | .modpow => l.opm.toInt ≤ 0 ∨ l.opa.toInt < 0 ∨ l.opb.toInt < 0
  | .modmul => l.opm.toInt ≤ 0 ∨ l.opa.toInt < 0 ∨ l.opb.toInt < 0
  | .modinv => l.opm.toInt ≤ 0 ∨ l.opa.toInt < 0
  | .safeprimeP => l.opa.toInt < 0 ∨ 1073741823 < l.opa.toInt
  | .genfindSub => l.opa.toInt < 3
  | .genfindRef => l.opa.toInt < 3
  | .isprime => False
  | .safeprimeQ => False

/-- The rows 2 to 4 of R200's table: the errors of a decoded command, each with its AUX value. -/
inductive CommandError (l : Latch) : Instr → CmdError → Int → Prop
  | precondition {i : Instr} (h : PreconditionFails l i) : CommandError l i .preconditionViolation 0
  | notCoprime : CommandError l .modinv .nonInvertibleInput (Nat.gcd l.opa.toNat l.opm.toNat)
  | noCandidate {i : Instr} (hi : i = .genfindSub ∨ i = .genfindRef) :
    CommandError l i .domainConstructionFailure ((l.opa.toNat - 1) / 2 : Nat)

/-- The operand check precedes any computation (R114, R201). -/
theorem commandOutcome_of_preconditionFails {l : Latch} {i : Instr} (h : PreconditionFails l i) :
    commandOutcome i l = .err .preconditionViolation 0 := by
  cases i with
  | isprime | safeprimeQ => exact h.elim
  | modpow | modmul | modinv | safeprimeP | genfindSub | genfindRef => exact if_pos h

theorem outcomeSafeprimeQ_ne_err (l : Latch) (c : CmdError) (info : Int) : outcomeSafeprimeQ l ≠ .err c info := by
  unfold outcomeSafeprimeQ
  split <;> exact nofun

/-- GENFIND on an accepted operand has one error, with AUX = (q - 1) div 2 (R173). -/
theorem outcomeGenfind_err {filter : Nat → Nat → Nat → Bool} {l : Latch} {c : CmdError} {info : Int}
    (hq : 3 ≤ l.opa.toInt) (h : outcomeGenfind filter l = .err c info) :
    c = .domainConstructionFailure ∧ info = ((l.opa.toNat - 1) / 2 : Nat) := by
  unfold outcomeGenfind at h
  rw [if_neg (show ¬ l.a < 3 from not_lt.2 hq), toNat_a_of_nonneg (by omega)] at h
  dsimp only at h
  split at h
  · cases h
  · cases h
    exact ⟨rfl, rfl⟩

/-- A command whose operands pass the check of R201 can still fail in its computation: MODINV and GENFIND only. -/
theorem commandError_of_accepted {l : Latch} {i : Instr} {c : CmdError} {info : Int}
    (hpre : ¬ PreconditionFails l i) (h : commandOutcome i l = .err c info) : CommandError l i c info := by
  cases i <;> simp only [PreconditionFails, not_or, not_le, not_lt] at hpre
  case modpow =>
    obtain ⟨hm, ha, hb⟩ := hpre
    rw [commandOutcome_modpow_accepted hm ha hb] at h
    cases h
  case modmul =>
    obtain ⟨hm, ha, hb⟩ := hpre
    rw [commandOutcome_modmul_accepted hm ha hb] at h
    cases h
  case modinv =>
    obtain ⟨hm, ha⟩ := hpre
    rw [commandOutcome_modinv_accepted hm ha] at h
    split at h
    · cases h
    · cases h
      exact .notCoprime
  case isprime => cases h
  case safeprimeQ => exact absurd h (outcomeSafeprimeQ_ne_err l c info)
  case safeprimeP =>
    obtain ⟨ha, hle⟩ := hpre
    rw [commandOutcome_safeprimeP_accepted ha hle decide_eq_true_iff] at h
    cases h
  case genfindSub =>
    obtain ⟨rfl, rfl⟩ := outcomeGenfind_err hpre h
    exact .noCandidate (.inl rfl)
  case genfindRef =>
    obtain ⟨rfl, rfl⟩ := outcomeGenfind_err hpre h
    exact .noCandidate (.inr rfl)

/-- Every error of a decoded command is a row of the table. -/
theorem commandError_of_outcome {l : Latch} {i : Instr} {c : CmdError} {info : Int}
    (h : commandOutcome i l = .err c info) : CommandError l i c info := by
  by_cases hpre : PreconditionFails l i
  · rw [commandOutcome_of_preconditionFails hpre] at h
    cases h
    exact .precondition hpre
  · exact commandError_of_accepted hpre h

/-- The error code after a completion is the outcome's. -/
theorem complete_statusErrcode_eq_some_iff {o : CmdOutcome} {s : State} {c : CmdError} :
    (complete o s).statusErrcode = some c ↔ ∃ info, o = .err c info := by
  cases o with
  | ok res aux bool => exact ⟨nofun, nofun⟩
  | err code info =>
    constructor
    · rintro ⟨⟩
      exact ⟨info, rfl⟩
    · rintro ⟨_, ⟨⟩⟩
      rfl

/-- Settles O45: the check of R201 gives the error, and no computation gives it. -/
theorem preconditionViolationsExactly : Obligations.PreconditionViolationsExactly := by
  unfold Obligations.PreconditionViolationsExactly
  intro i s
  have hcode : (complete (commandOutcome i s.lat) s).statusErrcode = some .preconditionViolation ↔
      PreconditionFails s.lat i := by
    rw [complete_statusErrcode_eq_some_iff]
    constructor
    · rintro ⟨info, h⟩
      cases commandError_of_outcome h with
      | precondition hpre => exact hpre
    · exact fun hpre => ⟨0, commandOutcome_of_preconditionFails hpre⟩
  exact ⟨_, exec_eq_complete i s, hcode⟩

/-! ### The record of an error -/

/-- Settles O46: the completion with an error keeps what R202 names, and its AUX value is in the row of its code. -/
theorem errorRecord : Obligations.ErrorRecord := by
  unfold Obligations.ErrorRecord
  intro s t c hc h herr
  obtain rfl := Host.Outcome.next.inj ((step_of_completes hc).symm.trans h)
  have hbit : (busRead 0x08#6 (complete (latchOutcome s.lat) (afterMove s))).getLsbD 2 = true := by
    rw [busRead_status_getLsbD, errBit_eq, herr]
    rfl
  obtain ⟨info, ho⟩ := complete_statusErrcode_eq_some_iff.1 herr
  rw [ho] at hbit ⊢
  refine ⟨rfl, rfl, rfl, hbit, afterMove_cmd s, afterMove_opa s, afterMove_opb s, afterMove_opm s, ?_⟩
  cases hd : decode s.lat.cmd with
  | none =>
    rw [latchOutcome_of_illegal hd] at ho
    cases ho
    exact ⟨rfl, rfl⟩
  | some i =>
    rw [latchOutcome_of_decode hd] at ho
    cases commandError_of_outcome ho with
    | precondition => exact ⟨nofun, rfl⟩
    | notCoprime => exact ⟨rfl, word_natCast _⟩
    | noCandidate hi => exact ⟨hi.imp (congrArg some) (congrArg some), word_natCast _⟩

/-! ### A host access and a completion -/

theorem run_two_of_steps {s u t : State} (hs : step s = .next u) (hu : step u = .next t) :
    Host.Core.run Sys2Proof.core 2 s = .next t :=
  (run_succ_of_step core 1 hs).trans (run_succ_of_step core 0 hu)

section
variable {s : State} {ms : List Move} {ops : List HostOp} {off : Offset} {w : Word}

/-- A host step whose next operation is a port write to an aligned offset. -/
theorem step_host_writes (hal : Offset.aligned off = true) (hs : s.env.sched = .host :: ms)
    (hb : s.env.bus = .access (.write off w) :: ops) : step s = .next (busWrite off w (withQueues ops ms s)) := by
  have hd : deliver (.access (.write off w)) = .ok (.write off w) := deliverPort_of_aligned hal
  rw [step_host_performs hs hb hd, ← busAccess_withQueues]
  rfl

/-- A completion neither reads nor writes the operations and moves still to come. -/
theorem complete_withQueues (o : CmdOutcome) (s : State) :
    complete o (withQueues ops ms s) = withQueues ops ms (complete o s) := by
  cases o <;> rfl

/-- The order in which the engine completes its command and then the host writes. -/
theorem run_completes_then_writes (hal : Offset.aligned off = true) (hp : s.phase = .busy) (hw : s.work ≤ 1)
    (hs : s.env.sched = .engine :: .host :: ms) (hb : s.env.bus = .access (.write off w) :: ops) :
    Host.Core.run Sys2Proof.core 2 s =
      .next (busWrite off w (complete (latchOutcome s.lat) (withQueues ops ms s))) := by
  have henv := complete_env (latchOutcome s.lat) (withWork s.work (.host :: ms) s)
  have hwrite := step_host_writes hal (congrArg Env.sched henv) ((congrArg Env.bus henv).trans hb)
  rw [← complete_withQueues] at hwrite
  exact run_two_of_steps (step_engine_completes hp hw hs) hwrite

/-- The write first: the CMD write of a running command is dropped with OVR set, then the command completes. -/
theorem run_overruns_then_completes (hp : s.phase = .busy) (hw : s.work ≤ 1)
    (hs : s.env.sched = .host :: .engine :: ms) (hb : s.env.bus = .access (.write 0x0C#6 w) :: ops) :
    Host.Core.run Sys2Proof.core 2 s =
      .next (complete (latchOutcome s.lat) { withQueues ops ms s with statusOvr := true }) := by
  have hwrite : step s = .next { withQueues ops (.engine :: ms) s with statusOvr := true } := by
    rw [step_host_writes rfl hs hb]
    exact congrArg _ (writeCmd_of_busy (s := withQueues ops (.engine :: ms) s) hp w)
  exact run_two_of_steps hwrite (step_engine_completes hp hw rfl)

/-- The reset first: the command is aborted and the idle engine's move changes nothing but the schedule. -/
theorem run_resets_then_idles (hv : w.getLsbD 1 = true) (hs : s.env.sched = .host :: .engine :: ms)
    (hb : s.env.bus = .access (.write 0x04#6 w) :: ops) :
    Host.Core.run Sys2Proof.core 2 s = .next (engineReset (withQueues ops ms s)) := by
  have hwrite : step s = .next (engineReset (withQueues ops (.engine :: ms) s)) := by
    rw [step_host_writes rfl hs hb]
    exact congrArg _ (writeCtrl_of_bit1_set hv _)
  exact run_two_of_steps hwrite (idleEngineTakesNoStep _ ms rfl rfl)

end

/-- Settles O58: each order is a run of two steps, a write and a completion or an idle engine's move. -/
theorem bothOrdersAdmitted : Obligations.BothOrdersAdmitted := by
  unfold Obligations.BothOrdersAdmitted
  intro s ms ops w hp hw
  refine ⟨fun hb => ⟨fun hs => ?overrun, fun hs => ?accepted⟩, fun hb hv hs => ?reset⟩
  case overrun =>
    exact ⟨_, run_overruns_then_completes hp hw hs hb, complete_statusOvr .., complete_phase .., complete_cmd ..,
      shows_complete ..⟩
  case accepted =>
    have hwrite : busWrite 0x0C#6 w (complete (latchOutcome s.lat) (withQueues ops ms s)) =
        accept w (complete (latchOutcome s.lat) (withQueues ops ms s)) := writeCmd_of_idle (complete_phase ..) w
    refine ⟨_, (run_completes_then_writes rfl hp hw hs hb).trans (congrArg _ hwrite), ?_, accept_phase ..,
      accept_cmd .., ?_⟩
    · rw [accept_statusOvr, complete_statusOvr]
      rfl
    · rw [accept_lat, complete_opa, complete_opb, complete_opm]
      rfl
  case reset =>
    rcases hs with hs | hs
    · exact ⟨_, run_resets_then_idles hv hs hb, hasResetValues_engineReset _⟩
    · exact ⟨_, run_completes_then_writes rfl hp hw hs hb, ((ctrlWriteActs _ w).2 hv).1⟩

end Sys2Proof.Machine
end

section
/-! Proofs for 70_reset_and_hazards.md (R230-R243): both resets give R35's values (R231, R232), and a reset is the only
way a running command ends without completing (R233). -/

namespace Sys2Proof.Machine

theorem busWrite_of_regAt_ctrl {off : Offset} (h : regAt off = some .ctrl) (v : Word) (s : State) :
    busWrite off v s = writeCtrl v s := by
  unfold busWrite
  rw [h]

/-- Both reset sources have the same effect (R230). -/
theorem step_of_resets {s : State} (h : StepResets s) : ∃ u, step s = .next (engineReset u) := by
  rcases h with hm | ⟨v, ⟨off, ha, hr⟩, hv⟩
  · refine ⟨afterMove s, ?_⟩
    unfold step
    rw [hm]
    rfl
  · obtain ⟨ops, hstep⟩ := step_of_stepAccess ha
    refine ⟨setBus ops (afterMove s), hstep.trans ?_⟩
    rw [busAccess, busWrite_of_regAt_ctrl hr, writeCtrl_of_bit1_set hv]
    rfl

/-- Settles O3: whichever source resets, the step's state is a reset engine; and the row of BUSY in the flag table
names completions and resets as the only events that end a running command. -/
theorem resetAbandonsRunningCommand : Obligations.ResetAbandonsRunningCommand := by
  unfold Obligations.ResetAbandonsRunningCommand
  intro s t hp h
  refine ⟨fun hr => ?reset, fun hidle hnr => ?ends⟩
  case reset =>
    obtain ⟨u, hstep⟩ := step_of_resets hr
    obtain rfl := Host.Outcome.next.inj (hstep.symm.trans h)
    exact ⟨hasResetValues_engineReset u, rfl, rfl, rfl, fun ms => idleEngineTakesNoStep _ ms rfl rfl⟩
  case ends =>
    have hends := (phase_change (stepEffect_of_step h)).clearBy_of_falls nofun hp hidle
    have hc : StepCompletes s := hends.resolve_right hnr
    obtain rfl := Host.Outcome.next.inj ((step_of_completes hc).symm.trans h)
    exact ⟨hc, complete_statusDone ..⟩

/-- Settles O1: a move of the reset input is a reset, whatever the phase. -/
theorem hardwareResetSetsResetValues : Obligations.HardwareResetSetsResetValues := by
  unfold Obligations.HardwareResetSetsResetValues
  intro s ms hs
  obtain ⟨u, hstep⟩ := step_of_resets (.inl (currentMove_cons s .rst ms hs))
  exact ⟨_, hstep, hasResetValues_engineReset u⟩

/-- Settles O2: the write is the reset itself, and CTRL of a reset engine reads 0. -/
theorem softResetSetsResetValues : Obligations.SoftResetSetsResetValues := by
  unfold Obligations.SoftResetSetsResetValues
  intro s v hv
  rw [busWrite_of_regAt_ctrl rfl, writeCtrl_of_bit1_set hv]
  exact ⟨hasResetValues_engineReset s, busRead_engineReset _ s rfl (by decide)⟩

end Sys2Proof.Machine
end
